-- ==== Sys2Proof/Word.lean ====
section
/-! DEFINITION. The words of the block's one bus: data word, op word, register index, a transaction, and a host's bus access. -/

namespace Sys2Proof

/-- A data word: "Every transfer moves one whole 16-bit word" (R42). Bit 0 is the least significant bit (R8). -/
abbrev Word := BitVec 16

/-- The 3-bit op word `op[2:0] = {W, A[1:0]}` (R60). -/
abbrev OpWord := BitVec 3

/-- The 2-bit register index A (R40): 0 RAND, 1 STATE, 2 STATUS, 3 CTRL. -/
abbrev RegIndex := BitVec 2

/-- One bus transaction: an op word and a 16-bit data field (R60, R61). For a read the data the host puts there is
ignored, since D is what the block returns. -/
structure Transaction where
  op   : OpWord
  data : Word
deriving DecidableEq, Repr

/-- A host address as the host's program names it: the address of register index A, which is `BASE + A * REG_STRIDE`
(R41), or a plain number. Both spellings of one address mean the same (log 8). -/
inductive HostAddr where
  /-- the address `BASE + A * REG_STRIDE` of register index A -/
  | register (a : RegIndex)
  /-- any host address, written as a number -/
  | absolute (n : Nat)
deriving DecidableEq, Repr

/-- A host's bus access, `MemRead(addr, width)` or `MemWrite(addr, width, data)` (R9); the width is in bytes. -/
structure BusAccess where
  write : Bool
  addr  : HostAddr
  width : Nat
  data  : Word
deriving DecidableEq, Repr

end Sys2Proof
end

