-- ==== Sys2Proof/Config.lean ====
section
/-! DEFINITION. What an implementation fixes (the OPEN parameters of R7 and R161, as constants nothing in Lean can
evaluate), the free values, and the constants the spec does fix. -/

namespace Sys2Proof

/-- The reference host's LightMode (R161). -/
inductive LightMode where
  | dark
  | light
deriving DecidableEq, Repr, Inhabited

/-- Who takes a step: the host, the timer (R122), or the reset line (R150). -/
inductive Agent where
  | host
  | timer
  | reset
deriving DecidableEq, Repr

namespace Config

/-- BASE (R7, R41): the host address of register index 0. OPEN. -/
opaque base : Nat

/-- REG_STRIDE less one. -/
opaque strideLessOne : Nat

/-- REG_STRIDE (R7, R41): the host address distance between consecutive register indices. OPEN.
DEDUCED (log 8): it is not 0, since R41 gives each register index an address of its own. -/
def regStride : Nat := strideLessOne + 1

/-- RESET_SEED (R7, R30): STATE after reset, "any 16-bit value, including 0", the same at every reset. OPEN. -/
opaque resetSeed : Word

/-- PERIOD_TICKS less one. -/
opaque periodLessOne : Nat

/-- PERIOD_TICKS (R7): the number of timer ticks between timeouts, an integer >= 1. OPEN. -/
def periodTicks : Nat := periodLessOne + 1

/-- TICK_HZ (R7). OPEN. No rule of the model depends on it (R122, R160). -/
opaque tickHz : Nat

/-- LIGHTMODE0 (R161): the reference host's initial LightMode. OPEN. -/
opaque lightMode0 : LightMode

/-- FLICKER_DELAY (R161). OPEN. No rule of the model depends on it (R160). -/
opaque flickerDelay : Nat

/-- THRESHOLD, the reference host's light threshold (R161). -/
def threshold : Nat := 10

/-- Free value: TRS after the n-th reset, "any value (a draw at reset)" (R30). -/
opaque trsDraw : Nat → Bool

/-- Free value: CNT after the n-th reset, "any value (not used until arming)" (R30). -/
opaque cntDraw : Nat → Nat

/-- Free value: what sample() returns where no sample is listed, "a host input (a draw)" (R161). -/
opaque sampleDraw : Nat → Nat

/-- Free value: the turns that come before the host's own turn in the n-th free round, any finite list (R48, R139; log 2). -/
opaque turnsBeforeHost : Nat → List Agent

/-- Free value: the turns that come before the timer's own turn in the n-th free round, any finite list (R48, R139; log 2). -/
opaque turnsBeforeTimer : Nat → List Agent

end Config

end Sys2Proof
end

