-- ==== Sys2Proof/Machine/Address.lean ====
section
/-! DEFINITION. The register addresses of the host's map (R40, R41). -/

namespace Sys2Proof

/-- The host address of register index A, for a given BASE and REG_STRIDE (R41). -/
def regAddress (base stride : Nat) (a : RegIndex) : Nat := base + a.toNat * stride

/-- The number a host address stands for. -/
def HostAddr.value (base stride : Nat) : HostAddr → Nat
  | .register a => regAddress base stride a
  | .absolute n => n

/-- The four register indices, in the order of R40. -/
def regIndices : List RegIndex := [0#2, 1#2, 2#2, 3#2]

end Sys2Proof
end

