-- ==== Sys2Proof/Syntax.lean ====
section
/-! DEFINITION. The block's operations, one constructor per row of spec/opcode_table.json (R63). -/

namespace Sys2Proof

/-- The six operations. A write carries its data word D; a read has no operand (R62). -/
inductive Instr where
  /-- NEXT, op 0b000 (R81) -/
  | next
  /-- PEEK, op 0b001 (R87) -/
  | peek
  /-- STAT, op 0b010 (R102) -/
  | stat
  /-- SEED, op 0b101 (R86) -/
  | seed (d : Word)
  /-- ACK, op 0b110 (R104) -/
  | ack (d : Word)
  /-- CTRL, op 0b111 (R106) -/
  | ctrl (d : Word)
deriving DecidableEq, Repr

/-- The pseudo-operations of R69: other spellings of core operations. -/
abbrev Instr.arm : Instr := .ctrl 0x0001#16
abbrev Instr.clrWake : Instr := .ack 0x0001#16
abbrev Instr.reseed (v : Word) : Instr := .seed v

end Sys2Proof
end

