-- ==== Sys2Proof/WellFormed.lean ====
section
/-! DEFINITION. Which transactions and which host accesses the spec gives a meaning. An instruction needs no check: its
only operand is a 16-bit D, and every value of D is legal (R62, R64). -/

namespace Sys2Proof

/-- The two reserved op words: 0b011, read of CTRL, and 0b100, write of RAND (R65). -/
def OpWord.reserved (op : OpWord) : Bool := op == 0b011#3 || op == 0b100#3

/-- A transaction the block has an operation for (R63, R65). -/
def Transaction.wellFormed (t : Transaction) : Bool := !OpWord.reserved t.op

/-- "The only access width is 16 bits" (R43): two bytes. -/
def BusAccess.widthOk (x : BusAccess) : Bool := x.width == 2

/-- The address is `BASE + A*REG_STRIDE` for some A in 0..3 (R43). -/
def BusAccess.addressOk (base stride : Nat) (x : BusAccess) : Bool :=
  regIndices.any fun a => x.addr.value base stride == regAddress base stride a

/-- The access is neither the read of CTRL nor the write of RAND (R65). -/
def BusAccess.directionOk (base stride : Nat) (x : BusAccess) : Bool :=
  x.addr.value base stride != regAddress base stride (if x.write then 0#2 else 3#2)

/-- An access the block has an operation for: the right width, a register's address, a direction that register has. -/
def BusAccess.wellFormed (base stride : Nat) (x : BusAccess) : Bool :=
  x.widthOk && x.addressOk base stride && x.directionOk base stride

end Sys2Proof
end

