-- ==== Sys2Proof/Decode.lean ====
section
/-! DEFINITION. From a host access to a transaction (R41), from a transaction to an operation (R64), and back. -/

namespace Sys2Proof

/-- Why an access has no meaning. Raised by the decoder only; the block itself signals nothing (R66, R120).
Every one of them is safe: the model stops where the spec gives the access no meaning. -/
inductive Reject where
  /-- op 0b011, a read of CTRL: `refuse(ReservedRead3)` (R64, R65) -/
  | reservedRead3
  /-- op 0b100, a write of RAND: `refuse(ReservedWrite0)` (R64, R65) -/
  | reservedWrite0
  /-- an access of a width other than 16 bits (R43) -/
  | accessWidth
  /-- an access at an address that is no register's (R43) -/
  | accessAddress
deriving DecidableEq, Repr

/-- The op word `{W, A}` (R60). -/
def opWord (w : Bool) (a : RegIndex) : OpWord := BitVec.ofBool w ++ a

/-- Decoding is total over the 8 op words (R64). The data never selects the operation. -/
def decode (t : Transaction) : Except Reject Instr :=
  match t.op.getLsbD 2, t.op.getLsbD 1, t.op.getLsbD 0 with
  | false, false, false => .ok .next
  | false, false, true  => .ok .peek
  | false, true,  false => .ok .stat
  | false, true,  true  => .error .reservedRead3
  | true,  false, false => .error .reservedWrite0
  | true,  false, true  => .ok (.seed t.data)
  | true,  true,  false => .ok (.ack t.data)
  | true,  true,  true  => .ok (.ctrl t.data)

/-- The register index that a host address selects, if it is a register's (R41). -/
def HostAddr.regIndex (base stride : Nat) : HostAddr → Option RegIndex
  | .register a => some a
  | .absolute n => regIndices.find? fun a => n == regAddress base stride a

/-- The transaction of a host access: `{W, A}` and the data, for a 16-bit access at a register's address (R41, R43).
Where both the width and the address are wrong the width is named (log 10). -/
def transactionOf (base stride : Nat) (x : BusAccess) : Except Reject Transaction :=
  if x.width = 2 then
    match x.addr.regIndex base stride with
    | some a => .ok { op := opWord x.write a, data := x.data }
    | none   => .error .accessAddress
  else .error .accessWidth

/-- The operation a host access performs, or why it performs none. -/
def decodeAccess (base stride : Nat) (x : BusAccess) : Except Reject Instr :=
  match transactionOf base stride x with
  | .ok t    => decode t
  | .error r => .error r

/-- The transaction of an operation, from the opcode map of R63. A read's data field is the block's to fill; 0 here. -/
def encode : Instr → Transaction
  | .next   => { op := 0b000#3, data := 0#16 }
  | .peek   => { op := 0b001#3, data := 0#16 }
  | .stat   => { op := 0b010#3, data := 0#16 }
  | .seed d => { op := 0b101#3, data := d }
  | .ack d  => { op := 0b110#3, data := d }
  | .ctrl d => { op := 0b111#3, data := d }

/-- The host access that performs a transaction: 16 bits wide, at the register its index selects (R41). -/
def Transaction.access (t : Transaction) : BusAccess :=
  { write := t.op.getLsbD 2, addr := .register (t.op.setWidth 2), width := 2, data := t.data }

/-- A transaction as one number, op word first: op in bits 2..0 and D in bits 18..3 (log 1). -/
def Transaction.ofNumber (n : Nat) : Transaction := { op := BitVec.ofNat 3 n, data := BitVec.ofNat 16 (n / 8) }

/-- The number of a transaction (log 1). -/
def Transaction.number (t : Transaction) : Nat := t.op.toNat + 8 * t.data.toNat

/-- The operation that the decoder reads from a transaction whose bits are `w`, all bits from `nbits` up being 0. -/
def decodeTableWord (nbits w : Nat) : Option Instr :=
  match decode (.ofNumber (w % 2 ^ nbits)) with
  | .ok i    => some i
  | .error _ => none

end Sys2Proof
end

