-- ==== Sys2Proof/Machine/Block.lean ====
section
/-! DEFINITION. The block's architectural state, the tuple of R20, and its values after reset (R30). -/

namespace Sys2Proof.Machine

/-- "The block's whole architectural state is the following tuple. Nothing else is state of the block." (R20) -/
structure Block where
  /-- STATE, the 16-bit LFSR register (R23) -/
  lfsr  : Word
  /-- ARMED: false is Idle, true is Armed (R25) -/
  armed : Bool
  /-- IE, the interrupt-enable state (R27) -/
  ie    : Bool
  /-- WAKE, the coalescing wake flag (R26) -/
  wake  : Bool
  /-- TRS, the timeout-reason state (R28) -/
  trs   : Bool
  /-- CNT, the hidden countdown, in 1..PERIOD_TICKS while Armed (R29) -/
  cnt   : Nat
deriving DecidableEq, Repr

/-- The values of R30, for a given seed and given draws of TRS and CNT. -/
def resetBlock (seed : Word) (trs : Bool) (cnt : Nat) : Block :=
  { lfsr := seed, armed := false, ie := false, wake := false, trs := trs, cnt := cnt }

/-- The block after reset number `n`: RESET_SEED, and draws of TRS and CNT that no proof can see (R30). -/
def blockAtReset (n : Nat) : Block := resetBlock Config.resetSeed (Config.trsDraw n) (Config.cntDraw n)

end Sys2Proof.Machine
end

