-- ==== Sys2Proof/Machine/State.lean ====
section
/-! DEFINITION. The state of the block and of what drives it, the reasons a step can stop, and the state after reset. -/

namespace Sys2Proof.Machine

/-- No fault exists: "The block raises no synchronous exception. It has no cause codes and no error response on the bus."
(R120). Nothing raises one, so there is no constructor. -/
inductive Fault : Type
deriving DecidableEq, Repr

/-- Why the model gives a step no meaning (R66). -/
inductive Refusal where
  /-- Raised by an arm of exec whose instruction has no meaning yet. Safe. No arm raises it in this model. -/
  | notModelled (mnemonic : String)
  /-- Raised by the bus decoder for a reserved op word, a wrong width or an address that is no register's
  (R43, R65, R66). Safe: the spec gives such an access no meaning. -/
  | rejected (why : Reject)
deriving DecidableEq, Repr

/-- What the host can do next. -/
inductive HostAction where
  /-- one bus access (R41) -/
  | access (x : BusAccess)
  /-- enter the low-power sleep (R137) -/
  | sleep
  /-- run the reference duty-cycle loop, which never ends (R162) -/
  | dutyCycle
deriving DecidableEq, Repr

/-- Where the reference host stands in its loop (R162, R164, R165). -/
inductive DutyPhase where
  /-- `STAT -> s`, then test s[0] -/
  | checkWake
  /-- `ACK #0x0001` -/
  | clearWake
  /-- LightMode <- (sample() < THRESHOLD) ? Dark : Light -/
  | classify
  /-- outputs drivable, `NEXT -> j` -/
  | drawReference
  /-- `NEXT -> v` for output k, toggled if v > j -/
  | drawOutput (k : Fin 4) (j : Word)
  /-- delay FLICKER_DELAY -/
  | delay
  /-- OutputMask <- 0, outputs high-impedance -/
  | blankOutputs
  /-- sleep -/
  | enterSleep
deriving DecidableEq, Repr

/-- The reference host's own state (R161): not block state. -/
structure Duty where
  phase      : DutyPhase
  lightMode  : LightMode
  outputMask : BitVec 4
  drivable   : Bool
deriving DecidableEq, Repr

/-- The whole state: the block, what its lines carry after the last step, the host's side, and what says who moves next. -/
structure State where
  /-- the block's architectural state (R20) -/
  block     : Block
  /-- the value the last step's read returned, if it was a read (R9, R60) -/
  rdata     : Option Word
  /-- the last step emitted wake_irq (R126) -/
  wakeIrq   : Bool
  /-- the host sleeps (R137) -/
  asleep    : Bool
  /-- the host's remaining actions, in program order (R48) -/
  program   : List HostAction
  /-- the reference host's own state (R161) -/
  duty      : Duty
  /-- light samples still to be read (R161) -/
  samples   : List Nat
  /-- the agents that move in the next steps (R48: any interleaving) -/
  schedule  : List Agent
  /-- with the schedule empty: the number of the free round of turns that comes next (R139; log 2) -/
  round     : Nat
  /-- how many free values have been drawn (log 15) -/
  draws     : Nat
deriving DecidableEq, Repr

/-- The reference host when it starts (R161; phase and drivable: log 14). -/
def Duty.initial : Duty :=
  { phase := .checkWake, lightMode := Config.lightMode0, outputMask := 0#4, drivable := false }

/-- Right after reset: the block as R30 says, nothing on its lines, the host awake with no program loaded. -/
def State.reset : State :=
  { block := blockAtReset 0, rdata := none, wakeIrq := false, asleep := false, program := [],
    duty := Duty.initial, samples := [], schedule := [], round := 0, draws := 1 }

end Sys2Proof.Machine
end

