-- ==== Sys2Proof/Machine/Operands.lean ====
section
/-! DEFINITION. The operand forms. A write's only operand is D, 16 bits with no extension, scaling or shift (R62);
SEED takes it whole, ACK and CTRL read D[0] and ignore D[15:1]. -/

namespace Sys2Proof.Machine

/-- The whole data word, verbatim (R62, R86). -/
def wholeOperand (d : Word) : Word := d

/-- D[0], the only bit ACK and CTRL read (R104, R106). -/
def bitOperand (d : Word) : Bool := d.getLsbD 0

end Sys2Proof.Machine
end

