-- ==== Sys2Proof/Machine/Flags.lean ====
section
/-! DEFINITION. The status flags: STATUS as a word, and how ACK and a timeout change WAKE. -/

namespace Sys2Proof.Machine

/-- STATUS: `{12'b0, TRS, IE, ARMED, WAKE}` (R101, R102). -/
def statusWord (b : Block) : Word :=
  (0#12 ++ BitVec.ofBool b.trs ++ BitVec.ofBool b.ie ++ BitVec.ofBool b.armed ++ BitVec.ofBool b.wake : BitVec 16)

/-- WAKE after an ACK with data D: write 1 to clear (R104). -/
def wakeAfterAck (d : Word) (wake : Bool) : Bool := if bitOperand d then false else wake

end Sys2Proof.Machine
end

