-- ==== Sys2Proof/Machine/Ops.lean ====
section
/-! DEFINITION. The shared operations: completing an operation on the bus, arming, the timeout event (the block's one
interrupt), a tick, and reset. An OPEN parameter is an argument of the operation that uses it (R7). -/

namespace Sys2Proof.Machine

/-- A step that returns no data and emits nothing. -/
def quiet (s : State) : State := { s with rdata := none, wakeIrq := false }

/-- `rdata <- v` (R9): the step returns `v` to the host and emits nothing. -/
def respond (v : Word) (s : State) : State := { s with rdata := some v, wakeIrq := false }

/-- `STATE <- v` -/
def setLfsr (v : Word) (s : State) : State := { s with block := { s.block with lfsr := v } }

/-- `WAKE <- v` -/
def setWake (v : Bool) (s : State) : State := { s with block := { s.block with wake := v } }

/-- `CNT <- n` -/
def setCnt (n : Nat) (s : State) : State := { s with block := { s.block with cnt := n } }

/-- Configure and arm, in one atomic step: TRS <- 0, CNT <- PERIOD_TICKS, ARMED <- 1, IE <- 1 (R106). -/
def armTimer (period : Nat) (s : State) : State :=
  { s with block := { s.block with trs := false, cnt := period, armed := true, ie := true } }

/-- `emit wake_irq`: one pulse, which ends the sleep of a sleeping host and does nothing to an awake one (R126, R137). -/
def emitWakeIrq (s : State) : State := { s with wakeIrq := true, asleep := false }

/-- TIMEOUT, the block's one exceptional event and the whole of its side of a trap entry: WAKE <- 1, and wake_irq if
IE = 1. It saves nothing and there is no return from it (R124, R129, R130). -/
def timeout (s : State) : State :=
  if s.block.ie then emitWakeIrq (setWake true s) else setWake true s

/-- TICK, taken only when ARMED = 1: count down, or reload and time out in the same step (R123). -/
def tick (period : Nat) (s : State) : State :=
  if 1 < s.block.cnt then setCnt (s.block.cnt - 1) (quiet s) else timeout (setCnt period (quiet s))

/-- `@RESET` (R150): every element of the block's state takes its value of R30, with fresh draws of TRS and CNT, and no
wake_irq is emitted. The host's side is not the block's to reset (log 13). -/
def resetState (s : State) : State :=
  { quiet s with block := blockAtReset s.draws, draws := s.draws + 1 }

/-- The host enters its low-power sleep, whatever WAKE is (R137). -/
def fallAsleep (s : State) : State := { quiet s with asleep := true }

end Sys2Proof.Machine
end

