-- ==== Sys2Proof/Machine/Lfsr.lean ====
section
/-! DEFINITION. LFSR16: NEXT, PEEK and SEED (40_lfsr.md). No operation here writes a flag (R80). -/

namespace Sys2Proof.Machine

/-- "If the state is ever exactly zero, it is first reseeded to 1" (R81, R82). -/
def reseed (s : Word) : Word := if s = 0#16 then 1#16 else s

/-- The feedback bit: `s[15] ^ s[14] ^ s[12] ^ s[3]` (R81), bits counted from the least significant (R8). -/
def feedback (s : Word) : Bool := s.getLsbD 15 ^^ s.getLsbD 14 ^^ s.getLsbD 12 ^^ s.getLsbD 3

/-- `(s << 1) | zext_16(fb)`: bit 15 is dropped and the feedback enters bit 0 (R81); the f of R84. -/
def shiftIn (s : Word) : Word := (s <<< 1) ||| (BitVec.ofBool (feedback s)).setWidth 16

/-- The value NEXT computes from STATE (R81). -/
def nextValue (s : Word) : Word := shiftIn (reseed s)

/-- NEXT (R81): advance STATE and return the new STATE. -/
def execNext (s : State) : Host.Outcome State Fault Refusal :=
  .next (respond (nextValue s.block.lfsr) (setLfsr (nextValue s.block.lfsr) s))

/-- PEEK (R87): return STATE, no state change. -/
def execPeek (s : State) : Host.Outcome State Fault Refusal :=
  .next (respond s.block.lfsr s)

/-- SEED (R86): STATE <- D, stored as written, 0 included. -/
def execSeed (d : Word) (s : State) : Host.Outcome State Fault Refusal :=
  .next (quiet (setLfsr (wholeOperand d) s))

end Sys2Proof.Machine
end

