-- ==== Sys2Proof/Machine/Pwt.lean ====
section
/-! DEFINITION. PWT: STAT, ACK and CTRL (41_timer.md). No operation here reads or writes STATE (R100). -/

namespace Sys2Proof.Machine

/-- STAT (R102): return STATUS, no state change. -/
def execStat (s : State) : Host.Outcome State Fault Refusal :=
  .next (respond (statusWord s.block) s)

/-- ACK (R104): D[0] = 1 clears WAKE; D[15:1] is ignored; nothing else changes. -/
def execAck (d : Word) (s : State) : Host.Outcome State Fault Refusal :=
  .next (quiet (setWake (wakeAfterAck d s.block.wake) s))

/-- What a CTRL write does for a given PERIOD_TICKS: arm from Idle if D[0] = 1 (R106), else nothing (R107). -/
def ctrlEffect (period : Nat) (d : Word) (s : State) : State :=
  if bitOperand d && !s.block.armed then armTimer period (quiet s) else quiet s

/-- CTRL (R106, R107). -/
def execCtrl (d : Word) (s : State) : Host.Outcome State Fault Refusal :=
  .next (ctrlEffect Config.periodTicks d s)

end Sys2Proof.Machine
end

