-- ==== Sys2Proof/Machine/Dispatch.lean ====
section
/-! DEFINITION. One arm per operation, each one call of its meaning. -/

namespace Sys2Proof.Machine

def exec (i : Instr) (s : State) : Host.Outcome State Fault Refusal :=
  match i with
  | .next => Sys2Proof.Machine.execNext s
  | .peek => Sys2Proof.Machine.execPeek s
  | .stat => Sys2Proof.Machine.execStat s
  | .seed d => Sys2Proof.Machine.execSeed d s
  | .ack d => Sys2Proof.Machine.execAck d s
  | .ctrl d => Sys2Proof.Machine.execCtrl d s

end Sys2Proof.Machine
end

