-- ==== Sys2Proof/Machine/Bus.lean ====
section
/-! DEFINITION. A host's bus access, decoded and performed (R41, R66). -/

namespace Sys2Proof.Machine

/-- The operation a host access performs, at the implementation's BASE and REG_STRIDE (R41). -/
def fetchAccess (x : BusAccess) : Except Reject Instr := decodeAccess Config.base Config.regStride x

/-- Perform a host access: its operation, or a refusal that changes no block state (R66). -/
def performAccess (x : BusAccess) (s : State) : Host.Outcome State Fault Refusal :=
  match fetchAccess x with
  | .ok i    => exec i s
  | .error r => .refused (.rejected r)

end Sys2Proof.Machine
end

