-- ==== Sys2Proof/Machine/Duty.lean ====
section
/-! DEFINITION. The reference host program, the duty-cycle loop (R161 to R165). Each step is one block operation or one
action of the host alone, so a tick can fall between any two of them (R48). -/

namespace Sys2Proof.Machine

/-- The host's own bookkeeping after a block operation has completed. -/
def afterOp (o : Host.Outcome State Fault Refusal) (f : State → State) : Host.Outcome State Fault Refusal :=
  match o with
  | .next s    => .next (f s)
  | .fault r   => .fault r
  | .refused r => .refused r

/-- The loop's operations as host accesses. -/
def readRand : BusAccess := { write := false, addr := .register 0#2, width := 2, data := 0#16 }
def readStatus : BusAccess := { write := false, addr := .register 2#2, width := 2, data := 0#16 }
def writeStatusOne : BusAccess := { write := true, addr := .register 2#2, width := 2, data := 1#16 }

/-- The value the host has just read. -/
def lastRead (s : State) : Word := s.rdata.getD 0#16

def setPhase (p : DutyPhase) (s : State) : State := { s with duty := { s.duty with phase := p } }

/-- "if LightMode == Dark then flicker_iteration else light_branch" (R162). -/
def branchPhase : LightMode → DutyPhase
  | .dark  => .drawReference
  | .light => .blankOutputs

/-- Dark when sample() < THRESHOLD, Light when sample() >= THRESHOLD (R163). -/
def classifyLight (sample : Nat) : LightMode := if sample < Config.threshold then .dark else .light

/-- sample(): the next listed host input, else a free value (R161). -/
def takeSample (s : State) : Nat × State :=
  match s.samples with
  | v :: rest => (v, { s with samples := rest })
  | []        => (Config.sampleDraw s.draws, { s with draws := s.draws + 1 })

/-- OutputMask after a draw `v` for output `k` against the reference `j`: bit k toggles if v > j, unsigned and strict
(R10, R164). -/
def toggleOutput (k : Fin 4) (j v : Word) (mask : BitVec 4) : BitVec 4 :=
  if j.toNat < v.toNat then mask ^^^ (1#4 <<< k.val) else mask

/-- The phase after output `k`: outputs are visited k = 0, 1, 2, 3, then the delay (R164). -/
def phaseAfterOutput (k : Fin 4) (j : Word) : DutyPhase :=
  if h : k.val + 1 < 4 then .drawOutput ⟨k.val + 1, h⟩ j else .delay

/-- One step of the loop (R162 to R165). -/
def dutyStep (s : State) : Host.Outcome State Fault Refusal :=
  match s.duty.phase with
  | .checkWake =>
    afterOp (performAccess readStatus s) fun t =>
      setPhase (if (lastRead t).getLsbD 0 then .clearWake else branchPhase t.duty.lightMode) t
  | .clearWake => afterOp (performAccess writeStatusOne s) (setPhase .classify)
  | .classify =>
    let r := takeSample (quiet s)
    let mode := classifyLight r.1
    .next { r.2 with duty := { r.2.duty with lightMode := mode, phase := branchPhase mode } }
  | .drawReference =>
    afterOp (performAccess readRand s) fun t =>
      { t with duty := { t.duty with drivable := true, phase := .drawOutput 0 (lastRead t) } }
  | .drawOutput k j =>
    afterOp (performAccess readRand s) fun t =>
      { t with duty := { t.duty with outputMask := toggleOutput k j (lastRead t) t.duty.outputMask,
                                     phase := phaseAfterOutput k j } }
  | .delay => .next (setPhase .checkWake (quiet s))
  | .blankOutputs =>
    .next { quiet s with duty := { s.duty with outputMask := 0#4, drivable := false, phase := .enterSleep } }
  | .enterSleep => .next (setPhase .checkWake (fallAsleep s))

end Sys2Proof.Machine
end

