-- ==== Sys2Proof/Machine/Agents.lean ====
section
/-! DEFINITION. What each agent does in its turn, and whose turn it is (R11, R48, R122). -/

namespace Sys2Proof.Machine

/-- The host's turn: its next action, in program order. Asleep, or with nothing left to do, it issues nothing (R137). -/
def hostStep (s : State) : Host.Outcome State Fault Refusal :=
  if s.asleep then .next (quiet s)
  else
    match s.program with
    | []                => .next (quiet s)
    | .access x :: rest => performAccess x { s with program := rest }
    | .sleep :: rest    => .next (fallAsleep { s with program := rest })
    | .dutyCycle :: _   => dutyStep s

/-- The timer's turn for a given PERIOD_TICKS: a TICK exactly when ARMED = 1; "In Idle the timer takes no step" (R122). -/
def timerTick (period : Nat) (s : State) : State := if s.block.armed then tick period s else quiet s

/-- The timer's turn. -/
def timerStep (s : State) : Host.Outcome State Fault Refusal := .next (timerTick Config.periodTicks s)

/-- One turn of an agent. -/
def agentStep (a : Agent) (s : State) : Host.Outcome State Fault Refusal :=
  match a with
  | .host  => hostStep s
  | .timer => timerStep s
  | .reset => .next (resetState s)

/-- The n-th round of turns, for given lists of turns before the host's and before the timer's: whatever stands in the lists,
both agents have a turn in every round, and that is all R139's weak fairness asks (log 2). -/
def turnRound (beforeHost beforeTimer : Nat → List Agent) (n : Nat) : List Agent :=
  beforeHost n ++ .host :: (beforeTimer n ++ [.timer])

/-- The n-th round after the schedule, made of free values: which fair order of turns comes is open (R48, R139). -/
def freeRound (n : Nat) : List Agent := turnRound Config.turnsBeforeHost Config.turnsBeforeTimer n

/-- Whose turn it is: the schedule says, and after it the next free round. -/
def nextAgent (s : State) : Agent :=
  match s.schedule with
  | a :: _ => a
  | []     => (freeRound s.round).headD .host

/-- The turn just chosen is used up; a free round that has begun is the schedule from there on. -/
def takeTurn (s : State) : State :=
  match s.schedule with
  | _ :: rest => { s with schedule := rest }
  | []        => { s with schedule := (freeRound s.round).tail, round := s.round + 1 }

end Sys2Proof.Machine
end

