-- ==== Sys2Proof/Machine/Step.lean ====
section
/-! DEFINITION. One step: one turn of one agent (R11). -/

namespace Sys2Proof.Machine

/-- "One step of the block is one of two things": a host operation or a timer tick (R11), or a reset (R150). -/
def step (s : State) : Host.Outcome State Fault Refusal := agentStep (nextAgent s) (takeTurn s)

/-- `s` with the transaction whose bits are `w` as the host's next action, the host awake and its turn next. -/
def State.withFetchWord (s : State) (nbits w : Nat) : State :=
  { s with
    asleep   := false
    program  := .access (Transaction.ofNumber (w % 2 ^ nbits)).access :: s.program
    schedule := .host :: s.schedule }

end Sys2Proof.Machine
end

