-- ==== Sys2Proof/Safety.lean ====
section
/-! DEFINITION. The terms claims are made in: the invariant of the machine, the operation a turn performs, and programs
written as the lines of R68. -/

namespace Sys2Proof.Machine

/-- The facts of R31 about the block, and CNT's range while Armed (R29). -/
structure Block.Coherent (b : Block) : Prop where
  /-- "IE = ARMED" -/
  ie_eq_armed  : b.ie = b.armed
  /-- "WAKE = 1 implies ARMED = 1" -/
  wake_armed   : b.wake = true → b.armed = true
  /-- "CNT stays in 1..PERIOD_TICKS" (R123) -/
  cnt_in_range : b.armed = true → 1 ≤ b.cnt ∧ b.cnt ≤ Config.periodTicks

/-- The invariant of the machine. -/
structure State.Inv (s : State) : Prop where
  coherent      : s.block.Coherent
  /-- wake_irq comes with WAKE = 1 and an awake host (R124, R137) -/
  irq_wakes     : s.wakeIrq = true → s.block.wake = true ∧ s.asleep = false
  /-- "In Light mode, OutputMask must be all-off before the sleep primitive is invoked" (R165) -/
  blank_to_sleep : s.duty.phase = .enterSleep → s.duty.outputMask = 0#4 ∧ s.duty.drivable = false

/-- The block operation of the reference host's next step, if that step is one (R162, R164). -/
def dutyOp : DutyPhase → Option Instr
  | .checkWake      => some .stat
  | .clearWake      => some (.ack 1#16)
  | .classify       => none
  | .drawReference  => some .next
  | .drawOutput _ _ => some .next
  | .delay          => none
  | .blankOutputs   => none
  | .enterSleep     => none

/-- The block operation that the turn about to be taken performs, if it performs one. -/
def pendingOp (s : State) : Option Instr :=
  match nextAgent s with
  | .timer => none
  | .reset => none
  | .host  =>
    if s.asleep then none
    else
      match s.program with
      | []               => none
      | .access x :: _   => (fetchAccess x).toOption
      | .sleep :: _      => none
      | .dutyCycle :: _  => dutyOp s.duty.phase

/-- The turn about to be taken is a timeout: the timer's, Armed, with CNT at its end (R123). -/
def timeoutPending (s : State) : Prop := nextAgent s = .timer ∧ s.block.armed = true ∧ s.block.cnt ≤ 1

/-- One line of a program as R68 writes it. -/
inductive Line where
  /-- one host operation -/
  | op (i : Instr)
  /-- `@TICK` -/
  | tick
  /-- `@RESET` -/
  | reset
deriving DecidableEq, Repr

/-- The effect of one line. -/
def lineStep (l : Line) (s : State) : Host.Outcome State Fault Refusal :=
  match l with
  | .op i  => exec i s
  | .tick  => timerStep s
  | .reset => .next (resetState s)

/-- A program's lines in order (R68). -/
def runLines : List Line → State → Host.Outcome State Fault Refusal
  | [], s => .next s
  | l :: rest, s =>
    match lineStep l s with
    | .next t    => runLines rest t
    | .fault r   => .fault r
    | .refused r => .refused r

/-- The values that the NEXT lines of a program return, in order. -/
def nextReads : List Line → State → List Word
  | [], _ => []
  | l :: rest, s =>
    match lineStep l s with
    | .next t    => (if l = .op .next then t.rdata.toList else []) ++ nextReads rest t
    | .fault _   => []
    | .refused _ => []

/-- The lines that can write STATE: NEXT, SEED and `@RESET` (R23). -/
def Line.writesLfsr : Line → Bool
  | .op .next     => true
  | .op (.seed _) => true
  | .op .peek     => false
  | .op .stat     => false
  | .op (.ack _)  => false
  | .op (.ctrl _) => false
  | .tick         => false
  | .reset        => true

/-- The lines that give STATE a value of their own, SEED and `@RESET` (R31). -/
def Line.setsLfsr : Line → Bool
  | .op (.seed _) => true
  | .reset        => true
  | .op .next     => false
  | .op .peek     => false
  | .op .stat     => false
  | .op (.ack _)  => false
  | .op (.ctrl _) => false
  | .tick         => false

/-- How many `@TICK` lines a program has. -/
def tickCount (ls : List Line) : Nat := ls.count .tick

/-- The first `n` rounds of turns, for given lists before the host's and the timer's. -/
def firstRounds (beforeHost beforeTimer : Nat → List Agent) (n : Nat) : List Agent :=
  (List.range n).flatMap (turnRound beforeHost beforeTimer)

/-- The turns to come: the schedule, and the next `n` free rounds after it. -/
def comingTurns (n : Nat) (s : State) : List Agent :=
  s.schedule ++ (List.range n).flatMap fun m => freeRound (s.round + m)

/-- The agent that takes a line's turn. -/
def Line.agent : Line → Agent
  | .op _  => .host
  | .tick  => .timer
  | .reset => .reset

/-- The host action of a line, if it is the host's. -/
def Line.action? : Line → Option HostAction
  | .op i  => some (.access (encode i).access)
  | .tick  => none
  | .reset => none

/-- `s` with a program's lines loaded: its operations as the host's next actions, its order as the schedule. -/
def loadLines (ls : List Line) (s : State) : State :=
  { s with program := ls.filterMap Line.action? ++ s.program, schedule := ls.map Line.agent ++ s.schedule }

end Sys2Proof.Machine
end

