-- ==== Sys2Proof/Certificates/Slice0/Obligations.lean ====
section
/-! DEFINITION. The statements for the provers, from the numbered rules of spec/. -/

open Sys2Proof Sys2Proof.Machine

/-! ### Decoding and encoding -/

/-- R64: "Decoding is total over the 8 op words". Each of the eight, whatever the data. -/
def Obligations.OpcodeMapDecodesEveryWord : Prop :=
  ∀ d : Word,
    decode { op := 0b000#3, data := d } = .ok .next ∧
    decode { op := 0b001#3, data := d } = .ok .peek ∧
    decode { op := 0b010#3, data := d } = .ok .stat ∧
    decode { op := 0b101#3, data := d } = .ok (.seed d) ∧
    decode { op := 0b110#3, data := d } = .ok (.ack d) ∧
    decode { op := 0b111#3, data := d } = .ok (.ctrl d) ∧
    decode { op := 0b011#3, data := d } = .error .reservedRead3 ∧
    decode { op := 0b100#3, data := d } = .error .reservedWrite0

/-- R41, R60, R63: for every operation, the 16-bit access at `BASE + A*REG_STRIDE` in its direction decodes to it, written
by register index or by number; and every access that decodes to it is such an access, with its data if it is a write.
That REG_STRIDE is not 0 is log 8's reading, that the data of a read is ignored log 11's. -/
def Obligations.HostAccessesAndOperationsAgree : Prop :=
  ∀ (base stride : Nat), 1 ≤ stride → ∀ i : Instr,
    decodeAccess base stride (encode i).access = .ok i ∧
    decodeAccess base stride { (encode i).access with
      addr := .absolute (regAddress base stride ((encode i).op.setWidth 2)) } = .ok i ∧
    ∀ x : BusAccess, decodeAccess base stride x = .ok i →
      x.width = 2 ∧ x.write = (encode i).op.getLsbD 2 ∧
      x.addr.value base stride = regAddress base stride ((encode i).op.setWidth 2) ∧
      (x.write = true → x.data = (encode i).data)

/-- Every operation, with every data word, is read back from its bits (R60, R63; the number layout is log 1's). -/
def Obligations.DecodeReadsBackEveryEncoding : Prop :=
  ∀ i : Instr, decode (encode i) = .ok i ∧
    ∀ nbits : Nat, 19 ≤ nbits → decodeTableWord nbits (encode i).number = some i

/-- An access has a meaning exactly when its width, address and direction are a register's (R40, R43, R65).
That REG_STRIDE is not 0 is log 8's reading. -/
def Obligations.MeaningfulAccessesAreTheWellFormedOnes : Prop :=
  ∀ (base stride : Nat) (x : BusAccess), 1 ≤ stride →
    ((∃ i, decodeAccess base stride x = .ok i) ↔ x.wellFormed base stride = true)

/-- R43: an access of another width, or at an address that is no register's, is refused. Under which name is the model's:
where both are wrong, that the width is named is log 10's DESIGN CHOICE. -/
def Obligations.WrongWidthOrAddressIsRefused : Prop :=
  ∀ (s : State) (x : BusAccess) (rest : List HostAction),
    nextAgent s = .host → s.asleep = false → s.program = .access x :: rest →
    (x.width ≠ 2 → step s = .refused (.rejected .accessWidth)) ∧
    (x.width = 2 →
      (∀ a : RegIndex, x.addr.value Config.base Config.regStride ≠ regAddress Config.base Config.regStride a) →
      step s = .refused (.rejected .accessAddress))

/-- R65, R66: a read of CTRL and a write of RAND are refused by name, and the run stays refused.
That the outcome ends the run is log 10's reading of R66. -/
def Obligations.ReservedWordsAreRefused : Prop :=
  ∀ (s : State) (x : BusAccess) (rest : List HostAction),
    nextAgent s = .host → s.asleep = false → s.program = .access x :: rest → x.width = 2 →
    (x.write = false → x.addr.value Config.base Config.regStride = regAddress Config.base Config.regStride 3#2 →
      ∀ k, Host.Core.run Sys2Proof.core (k + 1) s = .refused (.rejected .reservedRead3)) ∧
    (x.write = true → x.addr.value Config.base Config.regStride = regAddress Config.base Config.regStride 0#2 →
      ∀ k, Host.Core.run Sys2Proof.core (k + 1) s = .refused (.rejected .reservedWrite0))

/-! ### One step -/

/-- A step of the awake host performs the operation its next access decodes to (R41, R48), and uses up that access and
that turn. -/
def Obligations.StepPerformsTheDecodedAccess : Prop :=
  ∀ (s : State) (x : BusAccess) (rest : List HostAction) (i : Instr),
    nextAgent s = .host → s.asleep = false → s.program = .access x :: rest →
    decodeAccess Config.base Config.regStride x = .ok i →
    step s = exec i { takeTurn s with program := rest }

/-- A transaction placed by withFetchWord is the very next step's operation, if it decodes to one (log 1, log 16). -/
def Obligations.StepRunsThePlacedTransaction : Prop :=
  ∀ (s : State) (nbits w : Nat) (i : Instr), decodeTableWord nbits w = some i →
    step (s.withFetchWord nbits w) = exec i { s with asleep := false }

/-- A program's lines (R68), loaded as the host's accesses and a schedule, run step by step to the lines' own effect (R48). The
form of program and schedule is the model's (logs 2 and 16); so is that a reset line leaves the host's program (log 13) and
that a tick line passes in Idle (log 3). -/
def Obligations.LoadedLinesRunStepByStep : Prop :=
  ∀ (ls : List Line) (s : State), s.asleep = false →
    Host.Core.run Sys2Proof.core ls.length (loadLines ls s) = runLines ls s

/-- Every operation completes in every state, whatever its data, and emits no wake_irq (R80, R100, R120, R132). -/
def Obligations.EveryOperationCompletesQuietly : Prop :=
  ∀ (i : Instr) (s : State), ∃ t, exec i s = .next t ∧ t.wakeIrq = false ∧
    t.asleep = s.asleep ∧ t.program = s.program ∧ t.duty = s.duty ∧ t.samples = s.samples ∧
    t.schedule = s.schedule ∧ t.round = s.round ∧ t.draws = s.draws

/-! ### Whose turn it is -/

/-- R48: turns follow the schedule, and then the free rounds one after another; no step of any agent changes either otherwise.
The form of schedule and rounds is log 2's DESIGN CHOICE. -/
def Obligations.TurnsFollowTheScheduleThenTheFreeRounds : Prop :=
  ∀ s t : State, step s = .next t →
    (s.schedule ≠ [] → nextAgent s :: t.schedule = s.schedule ∧ t.round = s.round) ∧
    (s.schedule = [] → nextAgent s :: t.schedule = freeRound s.round ∧ t.round = s.round + 1)

/-- R139: neither the host's nor the timer's turn is postponed forever: it comes within the schedule and one free round, unless
the run is refused before. It rests on log 2's DESIGN CHOICE of rounds. That a refusal ends the run is log 10's. -/
def Obligations.NeitherAgentIsPostponedForever : Prop :=
  ∀ (s : State) (a : Agent), a = .host ∨ a = .timer →
    ∃ k, k < (comingTurns 1 s).length ∧
      ((∃ r, Host.Core.run Sys2Proof.core k s = .refused r) ∨
       ∃ t, Host.Core.run Sys2Proof.core k s = .next t ∧ nextAgent t = a)

/-- R48, R139: the free rounds can be every order of turns in which the host's and the timer's never stop coming, with resets
anywhere among them, and no other: n rounds hold at least n turns of each, and every such infinite order is, round by round,
made of lists of turns before the host's and before the timer's. So log 2's DESIGN CHOICE of rounds leaves out no fair order. -/
def Obligations.RoundsAreExactlyTheFairOrders : Prop :=
  (∀ (beforeHost beforeTimer : Nat → List Agent) (n : Nat),
    n ≤ (firstRounds beforeHost beforeTimer n).count .host ∧ n ≤ (firstRounds beforeHost beforeTimer n).count .timer) ∧
  (∀ order : Nat → Agent,
    (∀ n, ∃ m, n ≤ m ∧ order m = .host) → (∀ n, ∃ m, n ≤ m ∧ order m = .timer) →
    ∃ beforeHost beforeTimer : Nat → List Agent, ∀ n, firstRounds beforeHost beforeTimer n =
      (List.range (firstRounds beforeHost beforeTimer n).length).map order)

/-! ### LFSR16 -/

/-- R81, bit by bit: with s the reseeded STATE, bit 0 of the new STATE is s[15] ^ s[14] ^ s[12] ^ s[3], bit i+1 is s[i];
it is stored and returned; nothing else changes. -/
def Obligations.NextShiftsInTheFeedback : Prop :=
  (encode .next).op = 0b000#3 ∧
  ∀ s : State, ∃ v r : Word,
    exec .next s = .next { s with block := { s.block with lfsr := v }, rdata := some v, wakeIrq := false } ∧
    r = (if s.block.lfsr = 0#16 then 1#16 else s.block.lfsr) ∧
    v.getLsbD 0 = (r.getLsbD 15 ^^ r.getLsbD 14 ^^ r.getLsbD 12 ^^ r.getLsbD 3) ∧
    ∀ i, i < 15 → v.getLsbD (i + 1) = r.getLsbD i

/-- R82: "NEXT from STATE = 0 returns 0x0002 and leaves STATE = 0x0002, the same result as NEXT from STATE = 1." -/
def Obligations.ZeroStateIsReseededInOneStep : Prop :=
  ∀ s : State,
    (s.block.lfsr = 0#16 ∨ s.block.lfsr = 1#16) →
    exec .next s = .next { s with block := { s.block with lfsr := 2#16 }, rdata := some 2#16, wakeIrq := false }

/-- R84: f is injective on all 65536 values, f(0) = 0, it maps the non-zero values onto the non-zero values, s is recovered
from f(s), and NEXT never yields 0. -/
def Obligations.RecurrencePermutesTheNonZeroValues : Prop :=
  (∀ a b : Word, shiftIn a = shiftIn b → a = b) ∧
  shiftIn 0#16 = 0#16 ∧
  (∀ v : Word, v ≠ 0#16 → ∃ s : Word, s ≠ 0#16 ∧ shiftIn s = v) ∧
  (∀ s : Word, (∀ i, i < 15 → s.getLsbD i = (shiftIn s).getLsbD (i + 1)) ∧
    s.getLsbD 15 = ((shiftIn s).getLsbD 0 ^^ s.getLsbD 14 ^^ s.getLsbD 12 ^^ s.getLsbD 3)) ∧
  (∀ s : State, ∃ t, exec .next s = .next t ∧ t.block.lfsr ≠ 0#16 ∧ t.rdata = some t.block.lfsr ∧
    (s.block.lfsr ≠ 0#16 → t.block.lfsr = shiftIn s.block.lfsr))

/-- R85: from a non-zero state, repeated NEXT returns to the start exactly at the multiples of 65535 and meets every non-zero
state on the way; from STATE = 0 it goes to 2 and follows the same cycle from there. -/
def Obligations.NextHasPeriod65535 : Prop :=
  (∀ s : State, s.block.lfsr ≠ 0#16 →
    (∀ n, ∃ t, runLines (List.replicate n (.op .next)) s = .next t ∧ (t.block.lfsr = s.block.lfsr ↔ 65535 ∣ n)) ∧
    (∀ v : Word, v ≠ 0#16 →
      ∃ n t, n < 65535 ∧ runLines (List.replicate n (.op .next)) s = .next t ∧ t.block.lfsr = v)) ∧
  (∀ s : State, s.block.lfsr = 0#16 →
    ∀ n, ∃ t, runLines (List.replicate (n + 1) (.op .next)) s = .next t ∧ (t.block.lfsr = 2#16 ↔ 65535 ∣ n))

/-- Every NEXT advances STATE: it never leaves it as it was (R45, R154). -/
def Obligations.EveryNextAdvances : Prop :=
  ∀ s : State, ∃ t, exec .next s = .next t ∧ t.block.lfsr ≠ s.block.lfsr

/-- R83: "Given the same STATE and the same sequence of NEXT and SEED operations, the values returned are the same in every
run, whatever timer ticks are interleaved." Resets may stand in both, at the same places: the seed is fixed (R151). -/
def Obligations.NextValuesDependOnlyOnTheGenerator : Prop :=
  ∀ (l m : List Line) (s t : State), l.filter Line.writesLfsr = m.filter Line.writesLfsr →
    s.block.lfsr = t.block.lfsr → nextReads l s = nextReads m t

/-- R87: PEEK returns STATE and changes nothing. -/
def Obligations.PeekReturnsTheState : Prop :=
  (encode .peek).op = 0b001#3 ∧
  ∀ s : State, exec .peek s = .next { s with rdata := some s.block.lfsr, wakeIrq := false }

/-- R86: SEED stores D verbatim, 0 included; a PEEK after it returns D, and the NEXT after it returns f(D), or 2 for D = 0. -/
def Obligations.SeedStoresVerbatim : Prop :=
  ∀ (d : Word) (s : State),
    encode (.seed d) = { op := 0b101#3, data := d } ∧
    exec (.seed d) s = .next { s with block := { s.block with lfsr := d }, rdata := none, wakeIrq := false } ∧
    (∃ t, runLines [.op (.seed d), .op .peek] s = .next t ∧ t.rdata = some d) ∧
    nextReads [.op (.seed d), .op .next] s = [if d = 0#16 then 2#16 else shiftIn d]

/-! ### PWT -/

/-- R102: STAT returns {12'b0, TRS, IE, ARMED, WAKE} and changes nothing. -/
def Obligations.StatReturnsTheStatus : Prop :=
  (encode .stat).op = 0b010#3 ∧
  ∀ s : State, ∃ v : Word,
    exec .stat s = .next { s with rdata := some v, wakeIrq := false } ∧
    v.getLsbD 0 = s.block.wake ∧ v.getLsbD 1 = s.block.armed ∧ v.getLsbD 2 = s.block.ie ∧ v.getLsbD 3 = s.block.trs ∧
    ∀ i, 4 ≤ i → v.getLsbD i = false

/-- R104: ACK with D[0] = 1 clears WAKE; with D[0] = 0 it changes nothing; it touches nothing else. -/
def Obligations.AckClearsWake : Prop :=
  ∀ (d : Word) (s : State),
    encode (.ack d) = { op := 0b110#3, data := d } ∧
    (d.getLsbD 0 = true →
      exec (.ack d) s = .next { s with block := { s.block with wake := false }, rdata := none, wakeIrq := false }) ∧
    (d.getLsbD 0 = false → exec (.ack d) s = .next { s with rdata := none, wakeIrq := false })

/-- R106: CTRL with D[0] = 1 in Idle: TRS <- 0, CNT <- PERIOD_TICKS, ARMED <- 1, IE <- 1, in one step. -/
def Obligations.CtrlArmsFromIdle : Prop :=
  ∀ (d : Word) (s : State), d.getLsbD 0 = true → s.block.armed = false →
    encode (.ctrl d) = { op := 0b111#3, data := d } ∧
    exec (.ctrl d) s = .next { s with
      block := { s.block with trs := false, cnt := Config.periodTicks, armed := true, ie := true }
      rdata := none, wakeIrq := false }

/-- R107: a CTRL write with D[0] = 0, or in the Armed state, changes nothing. -/
def Obligations.OtherCtrlWritesHaveNoEffect : Prop :=
  ∀ (d : Word) (s : State), (d.getLsbD 0 = false ∨ s.block.armed = true) →
    exec (.ctrl d) s = .next { s with rdata := none, wakeIrq := false }

/-- R45's column "idempotent": PEEK, STAT, SEED, ACK and CTRL done twice leave what they leave done once. -/
def Obligations.AllButNextAreIdempotent : Prop :=
  ∀ (i : Instr) (s : State), i ≠ .next → ∃ t, exec i s = .next t ∧ exec i t = .next t

/-- R62: ACK and CTRL ignore D[15:1]. -/
def Obligations.ReservedDataBitsAreIgnored : Prop :=
  ∀ (d e : Word) (s : State), d.getLsbD 0 = e.getLsbD 0 →
    exec (.ack d) s = exec (.ack e) s ∧ exec (.ctrl d) s = exec (.ctrl e) s

/-- R103: two STATs with nothing between return the same; a tick between them may raise bit 0 and changes no other bit. That the
timer's turn passes in Idle is log 3's, that CNT = 0 counts as the end log 18's. -/
def Obligations.StatChangesOnlyByATimeout : Prop :=
  ∀ s : State, ∃ a b c d : State, ∃ v w : Word,
    exec .stat s = .next a ∧ a.rdata = some v ∧
    exec .stat a = .next b ∧ b.rdata = some v ∧
    timerStep a = .next c ∧ exec .stat c = .next d ∧ d.rdata = some w ∧
    (∀ i, 1 ≤ i → w.getLsbD i = v.getLsbD i) ∧ (v.getLsbD 0 = true → w.getLsbD 0 = true) ∧
    (w.getLsbD 0 ≠ v.getLsbD 0 → s.block.armed = true ∧ s.block.cnt ≤ 1)

/-- R25, R103: once Armed, no operation and no tick changes ARMED, IE or TRS. -/
def Obligations.ArmedIsTerminal : Prop :=
  ∀ (ls : List Line) (s : State), s.block.armed = true → Line.reset ∉ ls →
    ∃ t, runLines ls s = .next t ∧ t.block.armed = true ∧ t.block.ie = s.block.ie ∧ t.block.trs = s.block.trs

/-! ### The timer -/

/-- R123: a tick with CNT > 1 counts down by one and does nothing else. -/
def Obligations.TickCountsDown : Prop :=
  ∀ s : State, nextAgent s = .timer → s.block.armed = true → 1 < s.block.cnt →
    step s = .next { takeTurn s with
      block := { s.block with cnt := s.block.cnt - 1 }, rdata := none, wakeIrq := false }

/-- R123, R124, R126, R137: a tick with CNT = 1 reloads CNT and times out in the same step: WAKE <- 1, and if
IE = 1 a wake_irq, which ends a host's sleep. STATE, ARMED, IE and TRS are unchanged, and nothing is saved. -/
def Obligations.TimeoutSetsWakeAndEmits : Prop :=
  ∀ s : State, nextAgent s = .timer → s.block.armed = true → s.block.cnt = 1 →
    step s = .next { takeTurn s with
      block := { s.block with cnt := Config.periodTicks, wake := true }
      rdata := none, wakeIrq := s.block.ie, asleep := s.asleep && !s.block.ie }

/-- R122: in Idle the timer takes no step. That a turn passes at all is log 3's DESIGN CHOICE. -/
def Obligations.IdleTimerTakesNoStep : Prop :=
  ∀ s : State, nextAgent s = .timer → s.block.armed = false →
    step s = .next { takeTurn s with rdata := none, wakeIrq := false }

/-- R125: after the arming write, whatever operations are interleaved, CNT follows the number of ticks, and a tick is a timeout
exactly when it is the PERIOD_TICKS-th, 2*PERIOD_TICKS-th, … since the arming write. -/
def Obligations.TimeoutsArePeriodic : Prop :=
  ∀ (s : State) (d : Word) (ls : List Line), d.getLsbD 0 = true → s.block.armed = false → Line.reset ∉ ls →
    ∃ t u, runLines (.op (.ctrl d) :: ls) s = .next t ∧
      t.block.cnt = Config.periodTicks - tickCount ls % Config.periodTicks ∧
      timerStep t = .next u ∧
      (u.wakeIrq = true ↔ Config.periodTicks ∣ tickCount ls + 1) ∧
      (Config.periodTicks ∣ tickCount ls + 1 → u.block.wake = true)

/-- R121, R126: the one source of wake_irq is a timeout with IE = 1, and each such timeout emits it. That CNT = 0 counts as
the end of the countdown is log 18's. -/
def Obligations.WakeIrqExactlyAtTimeouts : Prop :=
  ∀ s t : State, step s = .next t → (t.wakeIrq = true ↔ timeoutPending s ∧ s.block.ie = true)

/-- R128: both orders of a TIMEOUT against an ACK and against a STAT, and two timeouts against one. -/
def Obligations.TimeoutOrderedAgainstHostOperations : Prop :=
  ∀ (s : State) (d : Word), s.block.armed = true → s.block.cnt = 1 → d.getLsbD 0 = true →
    (∃ t, runLines [.tick, .op (.ack d)] s = .next t ∧ t.block.wake = false) ∧
    (∃ t, runLines [.op (.ack d), .tick] s = .next t ∧ t.block.wake = true) ∧
    (∃ t v, runLines [.tick, .op .stat] s = .next t ∧ t.rdata = some v ∧ v.getLsbD 0 = true) ∧
    (∃ t v, exec .stat s = .next t ∧ t.rdata = some v ∧ v.getLsbD 0 = s.block.wake) ∧
    (∃ t, runLines (.tick :: List.replicate Config.periodTicks .tick) s = .next t ∧
      t.block.wake = true ∧ t.block.cnt = Config.periodTicks)

/-- R105: however many timeouts occurred, one ACK clears them all; a timeout after the ACK sets WAKE again; one between the host's
STAT and its ACK is absorbed. -/
def Obligations.OneAckClearsAnyNumberOfTimeouts : Prop :=
  ∀ (s : State) (n : Nat) (d : Word), s.block.armed = true → 1 ≤ s.block.cnt → d.getLsbD 0 = true →
    (∃ t, runLines (List.replicate n .tick ++ [.op (.ack d)]) s = .next t ∧ t.block.wake = false) ∧
    (∃ t, runLines (.op (.ack d) :: List.replicate s.block.cnt .tick) s = .next t ∧ t.block.wake = true) ∧
    (∃ t, runLines (.op .stat :: List.replicate n .tick ++ [.op (.ack d)]) s = .next t ∧ t.block.wake = false)

/-! ### Reset and the whole machine -/

/-- R30: STATE = RESET_SEED, ARMED = IE = WAKE = 0 after power-up; TRS and CNT are draws, so nothing is said of them. -/
def Obligations.ResetValuesAreTheSpecs : Prop :=
  State.reset.block.lfsr = Config.resetSeed ∧ State.reset.block.armed = false ∧ State.reset.block.ie = false ∧
  State.reset.block.wake = false

/-- R150: a reset sets STATE to RESET_SEED and clears ARMED, IE and WAKE, draws TRS and CNT, and emits no wake_irq, from every
state. What it leaves of the host's side is the model's choice (log 13), and so is the count of draws (log 15). -/
def Obligations.ResetStepResetsTheBlock : Prop :=
  ∀ s : State, nextAgent s = .reset → ∃ (trs : Bool) (cnt : Nat), step s = .next { takeTurn s with
    block := { lfsr := Config.resetSeed, armed := false, ie := false, wake := false, trs := trs, cnt := cnt }
    rdata := none, wakeIrq := false, draws := s.draws + 1 }

/-- R151: after a reset no timeout and no wake_irq can occur until the arming write, whatever else is done. -/
def Obligations.NothingWakesBeforeArming : Prop :=
  ∀ (ls : List Line) (s : State), (∀ d, Line.op (.ctrl d) ∈ ls → d.getLsbD 0 = false) →
    ∃ t, runLines (.reset :: ls) s = .next t ∧
      t.block.armed = false ∧ t.block.ie = false ∧ t.block.wake = false ∧ t.wakeIrq = false

/-- R31: in every state reachable from reset by any operations, ticks and resets, IE = ARMED, WAKE = 1 implies ARMED = 1, and
STATE differs from 0 if a NEXT has been performed since the last reset or SEED. -/
def Obligations.ReachableStatesKeepTheThreeFacts : Prop :=
  ∀ ls : List Line, ∃ t, runLines ls State.reset = .next t ∧
    t.block.ie = t.block.armed ∧ (t.block.wake = true → t.block.armed = true) ∧
    (∀ pre post, ls = pre ++ .op .next :: post → (∀ l ∈ post, l.setsLfsr = false) → t.block.lfsr ≠ 0#16)

/-- Every step of every agent keeps the invariant: R31's facts, CNT in range while Armed (R29, R123), wake_irq only with
WAKE = 1 and an awake host (R124, R137), and outputs off before the reference host's sleep (R165). That a reset turn leaves
the host's side, so that outputs off before a sleep stay off across it, rests on log 13's DESIGN CHOICE. -/
def Obligations.StepKeepsTheInvariant : Prop :=
  ∀ s t : State, s.Inv → step s = .next t → t.Inv

/-- The invariant holds right after reset (R30, R31). The host's side at reset is the model's choice (logs 9 and 14). -/
def Obligations.ResetMeetsTheInvariant : Prop := State.reset.Inv

/-- R23, R25 to R29: what alone changes each element of the block's state. That CNT = 0 counts as the end of the
countdown is log 18's. -/
def Obligations.OnlyTheNamedStepsChangeTheBlock : Prop :=
  ∀ s t : State, step s = .next t →
    (t.block.lfsr ≠ s.block.lfsr →
      nextAgent s = .reset ∨ pendingOp s = some .next ∨ ∃ d, pendingOp s = some (.seed d) ∧ t.block.lfsr = d) ∧
    (t.block.armed ≠ s.block.armed ∨ t.block.ie ≠ s.block.ie ∨ t.block.trs ≠ s.block.trs →
      nextAgent s = .reset ∨
      (s.block.armed = false ∧ ∃ d : Word, d.getLsbD 0 = true ∧ pendingOp s = some (.ctrl d))) ∧
    (t.block.wake ≠ s.block.wake →
      nextAgent s = .reset ∨ (timeoutPending s ∧ t.block.wake = true) ∨
      (t.block.wake = false ∧ ∃ d : Word, d.getLsbD 0 = true ∧ pendingOp s = some (.ack d))) ∧
    (t.block.cnt ≠ s.block.cnt →
      nextAgent s = .reset ∨ (nextAgent s = .timer ∧ s.block.armed = true) ∨
      (s.block.armed = false ∧ ∃ d : Word, d.getLsbD 0 = true ∧ pendingOp s = some (.ctrl d)))

/-! ### The host's sleep -/

/-- R137: going to sleep is not prevented by WAKE = 1; a sleeping host issues no operation, keeps its program, and wakes in
exactly the steps that emit wake_irq, whatever WAKE is. That a reset turn too leaves the host asleep, with its program and the
reference host's state, rests on log 13's DESIGN CHOICE. That a turn of an agent that cannot move passes
is log 3's, that CNT = 0 counts as the end of the countdown log 18's. -/
def Obligations.SleepEndsExactlyAtAWakeIrq : Prop :=
  (∀ (s : State) (rest : List HostAction), nextAgent s = .host → s.asleep = false → s.program = .sleep :: rest →
    step s = .next { takeTurn s with program := rest, asleep := true, rdata := none, wakeIrq := false }) ∧
  (∀ s : State, s.asleep = true → ∃ t, step s = .next t ∧
    t.asleep = !t.wakeIrq ∧ (t.wakeIrq = true ↔ timeoutPending s ∧ s.block.ie = true) ∧
    t.program = s.program ∧ t.duty = s.duty ∧ t.rdata = none)

/-- R138: the block keeps its state across a host's sleep, but for what the timer does (CNT, WAKE) and a reset. That a
turn of an agent that cannot move passes is log 3's DESIGN CHOICE, and that CNT = 0 reloads is log 18's. -/
def Obligations.BlockKeepsItsStateWhileTheHostSleeps : Prop :=
  ∀ s : State, s.asleep = true → nextAgent s ≠ .reset → ∃ t, step s = .next t ∧
    t.block.lfsr = s.block.lfsr ∧ t.block.armed = s.block.armed ∧ t.block.ie = s.block.ie ∧ t.block.trs = s.block.trs ∧
    (nextAgent s = .host → t.block = s.block) ∧
    (nextAgent s = .timer → s.block.armed = true →
      t.block.cnt = if 1 < s.block.cnt then s.block.cnt - 1 else Config.periodTicks)

/-- R139: a sleep while Armed ends, whatever fair order of turns comes: within the turns up to the CNT-th free round the host is
awake, unless a reset takes its turn first, with the host still asleep and the timer still Armed. Where the schedule itself
holds CNT turns of the timer and no reset, it ends within the schedule. Of the free rounds (log 2) it uses only that each has a
turn of the timer. That a sleeping host's turn passes is log 3's. -/
def Obligations.EverySleepWhileArmedEnds : Prop :=
  ∀ s : State, s.Inv → s.asleep = true → s.block.armed = true →
    (∃ k t, k ≤ (comingTurns s.block.cnt s).length ∧ Host.Core.run Sys2Proof.core k s = .next t ∧
      ((t.asleep = false ∧ t.block.wake = true) ∨
       (t.asleep = true ∧ t.block.armed = true ∧ nextAgent t = .reset))) ∧
    (Agent.reset ∉ s.schedule → s.block.cnt ≤ s.schedule.count .timer →
      ∃ k t, k ≤ s.schedule.length ∧ Host.Core.run Sys2Proof.core k s = .next t ∧
        t.asleep = false ∧ t.block.wake = true)

/-- R139: "A sleep begun in Idle never ends, because no timeout can occur." The run ranges over every turn, resets too: R139
does not speak of a reset, and that the host stays asleep across one rests on log 13's DESIGN CHOICE (unsafe for the host's
side). That the turns of the sleeping host and of the timer in Idle pass is log 3's DESIGN CHOICE. -/
def Obligations.SleepInIdleNeverEnds : Prop :=
  ∀ s : State, s.asleep = true → s.block.armed = false →
    ∀ k, ∃ t, Host.Core.run Sys2Proof.core k s = .next t ∧ t.asleep = true ∧ t.block.armed = false

/-- R156: a timeout just before the sleep begins leaves WAKE = 1 and a sleeping host with a whole period ahead of it. -/
def Obligations.SleepEntryWindowCostsOnePeriod : Prop :=
  ∀ (s : State) (rest : List HostAction) (more : List Agent), s.block.armed = true → s.block.cnt = 1 →
    s.asleep = false → s.program = .sleep :: rest → s.schedule = .timer :: .host :: more →
    ∃ t, Host.Core.run Sys2Proof.core 2 s = .next t ∧ t.asleep = true ∧ t.block.wake = true ∧
      t.block.cnt = Config.periodTicks ∧ t.program = rest ∧ t.schedule = more

/-! ### The reference host -/

/-- R162: the loop's wake check: STAT, and if WAKE is set, ACK clears it before the light is classified; otherwise the branch
of the present LightMode is taken. The cut of the loop into phases is log 14's DESIGN CHOICE. -/
def Obligations.DutyLoopChecksAndClearsWake : Prop :=
  ∀ (s : State) (rest : List HostAction), nextAgent s = .host → s.asleep = false → s.program = .dutyCycle :: rest →
    (s.duty.phase = .checkWake → ∃ t, step s = .next t ∧ t.block = s.block ∧ t.program = s.program ∧
      t.rdata = some (statusWord s.block) ∧ t.duty.lightMode = s.duty.lightMode ∧
      t.duty.phase = (if s.block.wake then .clearWake
        else if s.duty.lightMode = .dark then .drawReference else .blankOutputs)) ∧
    (s.duty.phase = .clearWake → ∃ t, step s = .next t ∧ t.block = { s.block with wake := false } ∧
      t.program = s.program ∧ t.duty.lightMode = s.duty.lightMode ∧ t.duty.phase = .classify)

/-- R163: Dark when sample() < THRESHOLD = 10, Light when sample() >= 10; LightMode changes only at a wake check; the branch of
the new LightMode is next (R162). That sample() is the next of a list of samples, and with none listed a free value, and that
the loop is cut into phases, is log 14's DESIGN CHOICE, and the count that numbers the free value is log 15's; that a reset turn
leaves LightMode rests on log 13's. -/
def Obligations.LightIsClassifiedAtWakeChecksOnly : Prop :=
  (∀ (s : State) (rest : List HostAction), nextAgent s = .host → s.asleep = false → s.program = .dutyCycle :: rest →
    s.duty.phase = .classify →
    ∃ (t : State) (v : Nat), step s = .next t ∧
      (s.samples ≠ [] → s.samples = v :: t.samples) ∧
      (s.samples = [] → t.samples = [] ∧ v = Config.sampleDraw s.draws) ∧
      (t.duty.lightMode = .dark ↔ v < 10) ∧ (t.duty.lightMode = .light ↔ 10 ≤ v) ∧
      t.duty.phase = (if v < 10 then .drawReference else .blankOutputs) ∧
      t.block = s.block ∧ t.program = s.program) ∧
  (∀ s t : State, step s = .next t → t.duty.lightMode ≠ s.duty.lightMode →
    nextAgent s = .host ∧ s.duty.phase = .classify)

/-- R164: a flicker iteration draws j and four values by exactly five NEXT operations and toggles output k iff v_k > j
(unsigned, strict). The cut of the loop into phases is log 14's DESIGN CHOICE. -/
def Obligations.FlickerIterationDrawsFiveAndToggles : Prop :=
  ∀ (s : State) (rest : List HostAction) (more : List Agent), s.asleep = false → s.program = .dutyCycle :: rest →
    s.schedule = List.replicate 5 .host ++ more → s.duty.phase = .drawReference →
    ∃ (t u : State) (j : Word) (v : Fin 4 → Word),
      Host.Core.run Sys2Proof.core 5 s = .next t ∧
      runLines (List.replicate 5 (.op .next)) s = .next u ∧
      nextReads (List.replicate 5 (.op .next)) s = j :: List.ofFn v ∧
      t.block = u.block ∧ t.duty.drivable = true ∧ t.duty.phase = .delay ∧ t.duty.lightMode = s.duty.lightMode ∧
      ∀ k : Fin 4, t.duty.outputMask.getLsbD k = (s.duty.outputMask.getLsbD k ^^ decide (j.toNat < (v k).toNat))

/-- R164: within one iteration no tie v = j occurs, from any state. -/
def Obligations.NoTieWithinAFlickerIteration : Prop :=
  ∀ (s : State) (j : Word) (v : Fin 4 → Word),
    nextReads (List.replicate 5 (.op .next)) s = j :: List.ofFn v → ∀ k, v k ≠ j

/-- R165: the light branch sets OutputMask to 0 and the outputs to high-impedance, and then sleeps; the block is untouched.
The cut of the loop into phases is log 14's DESIGN CHOICE. -/
def Obligations.LightBranchBlanksThenSleeps : Prop :=
  ∀ (s : State) (rest : List HostAction) (more : List Agent), s.asleep = false → s.program = .dutyCycle :: rest →
    s.schedule = .host :: .host :: more → s.duty.phase = .blankOutputs →
    ∃ t u, step s = .next t ∧ step t = .next u ∧
      t.duty.outputMask = 0#4 ∧ t.duty.drivable = false ∧ t.asleep = false ∧
      u.asleep = true ∧ u.duty.outputMask = 0#4 ∧ u.duty.drivable = false ∧ u.duty.phase = .checkWake ∧
      u.block = s.block
end

