-- ==== Sys2Proof/Laws/Bus.lean ====
section
/-! SUPPORT. Addresses, op words and accesses. -/

namespace Sys2Proof

open Machine

theorem Config.one_le_regStride : 1 ≤ Config.regStride := Nat.succ_le_succ (Nat.zero_le _)

theorem Config.one_le_periodTicks : 1 ≤ Config.periodTicks := Nat.succ_le_succ (Nat.zero_le _)

/-- Different register indices have different addresses. -/
theorem regAddress_inj {base stride : Nat} (h : 1 ≤ stride) {a b : RegIndex}
    (e : regAddress base stride a = regAddress base stride b) : a = b := by
  unfold regAddress at e
  exact BitVec.eq_of_toNat_eq (Nat.eq_of_mul_eq_mul_right h (Nat.add_left_cancel e))

/-- The register index an address selects, both ways. -/
theorem HostAddr.regIndex_eq_some {base stride : Nat} (h : 1 ≤ stride) (x : HostAddr) (a : RegIndex) :
    x.regIndex base stride = some a ↔ x.value base stride = regAddress base stride a := by
  have inj := @regAddress_inj base stride h
  cases x with
  | register b =>
    simp only [HostAddr.regIndex, HostAddr.value, Option.some.injEq]
    exact ⟨fun e => e ▸ rfl, fun e => inj e⟩
  | absolute n =>
    simp only [HostAddr.regIndex, HostAddr.value, regIndices]
    have all : ∀ b : RegIndex, b = 0#2 ∨ b = 1#2 ∨ b = 2#2 ∨ b = 3#2 := by decide
    constructor
    · intro e
      have := List.find?_some e
      simpa using this
    · rintro rfl
      have ne : ∀ b : RegIndex, a ≠ b → (regAddress base stride a == regAddress base stride b) = false := by
        intro b hb
        simpa using fun e => hb (inj e)
      rcases all a with rfl | rfl | rfl | rfl <;> simp [ne]

/-- An address selects no register exactly when it is none's. -/
theorem HostAddr.regIndex_eq_none {base stride : Nat} (h : 1 ≤ stride) (x : HostAddr) :
    x.regIndex base stride = none ↔ ∀ a, x.value base stride ≠ regAddress base stride a := by
  constructor
  · intro e a ha
    rw [(HostAddr.regIndex_eq_some h x a).2 ha] at e
    cases e
  · intro ne
    cases e : x.regIndex base stride with
    | none => rfl
    | some a => exact absurd ((HostAddr.regIndex_eq_some h x a).1 e) (ne a)

/-- The direction and the index of an op word put together are the op word. -/
theorem opWord_fields (op : OpWord) : opWord (op.getLsbD 2) (op.setWidth 2) = op := by
  revert op; decide

/-- The access of a transaction is that transaction again. -/
theorem transactionOf_access (base stride : Nat) (t : Transaction) : transactionOf base stride t.access = .ok t := by
  show Except.ok ({ op := opWord (t.op.getLsbD 2) (t.op.setWidth 2), data := t.data } : Transaction) = .ok t
  rw [opWord_fields]

theorem decodeAccess_access (base stride : Nat) (t : Transaction) : decodeAccess base stride t.access = decode t := by
  simp [decodeAccess, transactionOf_access]

/-- The op word of whatever a transaction decodes to is the transaction's own. -/
theorem decode_op {t : Transaction} {i : Instr} (h : decode t = .ok i) : t.op = (encode i).op := by
  obtain ⟨op, d⟩ := t
  revert h
  have : ∀ op : OpWord, op = 0 ∨ op = 1 ∨ op = 2 ∨ op = 3 ∨ op = 4 ∨ op = 5 ∨ op = 6 ∨ op = 7 := by decide
  rcases this op with rfl | rfl | rfl | rfl | rfl | rfl | rfl | rfl <;> intro h <;> simp [decode] at h <;> subst h <;> rfl

end Sys2Proof
end

