-- ==== Sys2Proof/Laws/State.lean ====
section
/-! SUPPORT. One lemma per field of State per update of State, for simp. -/

namespace Sys2Proof.Machine

@[simp] theorem quiet_block (s : State) : (quiet s).block = s.block := rfl
@[simp] theorem quiet_rdata (s : State) : (quiet s).rdata = none := rfl
@[simp] theorem quiet_wakeIrq (s : State) : (quiet s).wakeIrq = false := rfl
@[simp] theorem quiet_asleep (s : State) : (quiet s).asleep = s.asleep := rfl
@[simp] theorem quiet_program (s : State) : (quiet s).program = s.program := rfl
@[simp] theorem quiet_duty (s : State) : (quiet s).duty = s.duty := rfl
@[simp] theorem quiet_samples (s : State) : (quiet s).samples = s.samples := rfl
@[simp] theorem quiet_schedule (s : State) : (quiet s).schedule = s.schedule := rfl
@[simp] theorem quiet_round (s : State) : (quiet s).round = s.round := rfl
@[simp] theorem quiet_draws (s : State) : (quiet s).draws = s.draws := rfl

@[simp] theorem respond_block (v : Word) (s : State) : (respond v s).block = s.block := rfl
@[simp] theorem respond_rdata (v : Word) (s : State) : (respond v s).rdata = some v := rfl
@[simp] theorem respond_wakeIrq (v : Word) (s : State) : (respond v s).wakeIrq = false := rfl
@[simp] theorem respond_asleep (v : Word) (s : State) : (respond v s).asleep = s.asleep := rfl
@[simp] theorem respond_program (v : Word) (s : State) : (respond v s).program = s.program := rfl
@[simp] theorem respond_duty (v : Word) (s : State) : (respond v s).duty = s.duty := rfl
@[simp] theorem respond_samples (v : Word) (s : State) : (respond v s).samples = s.samples := rfl
@[simp] theorem respond_schedule (v : Word) (s : State) : (respond v s).schedule = s.schedule := rfl
@[simp] theorem respond_round (v : Word) (s : State) : (respond v s).round = s.round := rfl
@[simp] theorem respond_draws (v : Word) (s : State) : (respond v s).draws = s.draws := rfl

@[simp] theorem setLfsr_block (v : Word) (s : State) : (setLfsr v s).block = { s.block with lfsr := v } := rfl
@[simp] theorem setLfsr_rdata (v : Word) (s : State) : (setLfsr v s).rdata = s.rdata := rfl
@[simp] theorem setLfsr_wakeIrq (v : Word) (s : State) : (setLfsr v s).wakeIrq = s.wakeIrq := rfl
@[simp] theorem setLfsr_asleep (v : Word) (s : State) : (setLfsr v s).asleep = s.asleep := rfl
@[simp] theorem setLfsr_program (v : Word) (s : State) : (setLfsr v s).program = s.program := rfl
@[simp] theorem setLfsr_duty (v : Word) (s : State) : (setLfsr v s).duty = s.duty := rfl
@[simp] theorem setLfsr_samples (v : Word) (s : State) : (setLfsr v s).samples = s.samples := rfl
@[simp] theorem setLfsr_schedule (v : Word) (s : State) : (setLfsr v s).schedule = s.schedule := rfl
@[simp] theorem setLfsr_round (v : Word) (s : State) : (setLfsr v s).round = s.round := rfl
@[simp] theorem setLfsr_draws (v : Word) (s : State) : (setLfsr v s).draws = s.draws := rfl

@[simp] theorem setWake_block (b : Bool) (s : State) : (setWake b s).block = { s.block with wake := b } := rfl
@[simp] theorem setWake_rdata (b : Bool) (s : State) : (setWake b s).rdata = s.rdata := rfl
@[simp] theorem setWake_wakeIrq (b : Bool) (s : State) : (setWake b s).wakeIrq = s.wakeIrq := rfl
@[simp] theorem setWake_asleep (b : Bool) (s : State) : (setWake b s).asleep = s.asleep := rfl
@[simp] theorem setWake_program (b : Bool) (s : State) : (setWake b s).program = s.program := rfl
@[simp] theorem setWake_duty (b : Bool) (s : State) : (setWake b s).duty = s.duty := rfl
@[simp] theorem setWake_samples (b : Bool) (s : State) : (setWake b s).samples = s.samples := rfl
@[simp] theorem setWake_schedule (b : Bool) (s : State) : (setWake b s).schedule = s.schedule := rfl
@[simp] theorem setWake_round (b : Bool) (s : State) : (setWake b s).round = s.round := rfl
@[simp] theorem setWake_draws (b : Bool) (s : State) : (setWake b s).draws = s.draws := rfl

@[simp] theorem setCnt_block (n : Nat) (s : State) : (setCnt n s).block = { s.block with cnt := n } := rfl
@[simp] theorem setCnt_rdata (n : Nat) (s : State) : (setCnt n s).rdata = s.rdata := rfl
@[simp] theorem setCnt_wakeIrq (n : Nat) (s : State) : (setCnt n s).wakeIrq = s.wakeIrq := rfl
@[simp] theorem setCnt_asleep (n : Nat) (s : State) : (setCnt n s).asleep = s.asleep := rfl
@[simp] theorem setCnt_program (n : Nat) (s : State) : (setCnt n s).program = s.program := rfl
@[simp] theorem setCnt_duty (n : Nat) (s : State) : (setCnt n s).duty = s.duty := rfl
@[simp] theorem setCnt_samples (n : Nat) (s : State) : (setCnt n s).samples = s.samples := rfl
@[simp] theorem setCnt_schedule (n : Nat) (s : State) : (setCnt n s).schedule = s.schedule := rfl
@[simp] theorem setCnt_round (n : Nat) (s : State) : (setCnt n s).round = s.round := rfl
@[simp] theorem setCnt_draws (n : Nat) (s : State) : (setCnt n s).draws = s.draws := rfl

@[simp] theorem armTimer_block (n : Nat) (s : State) : (armTimer n s).block = { s.block with trs := false, cnt := n, armed := true, ie := true } := rfl
@[simp] theorem armTimer_rdata (n : Nat) (s : State) : (armTimer n s).rdata = s.rdata := rfl
@[simp] theorem armTimer_wakeIrq (n : Nat) (s : State) : (armTimer n s).wakeIrq = s.wakeIrq := rfl
@[simp] theorem armTimer_asleep (n : Nat) (s : State) : (armTimer n s).asleep = s.asleep := rfl
@[simp] theorem armTimer_program (n : Nat) (s : State) : (armTimer n s).program = s.program := rfl
@[simp] theorem armTimer_duty (n : Nat) (s : State) : (armTimer n s).duty = s.duty := rfl
@[simp] theorem armTimer_samples (n : Nat) (s : State) : (armTimer n s).samples = s.samples := rfl
@[simp] theorem armTimer_schedule (n : Nat) (s : State) : (armTimer n s).schedule = s.schedule := rfl
@[simp] theorem armTimer_round (n : Nat) (s : State) : (armTimer n s).round = s.round := rfl
@[simp] theorem armTimer_draws (n : Nat) (s : State) : (armTimer n s).draws = s.draws := rfl

@[simp] theorem emitWakeIrq_block (s : State) : (emitWakeIrq s).block = s.block := rfl
@[simp] theorem emitWakeIrq_rdata (s : State) : (emitWakeIrq s).rdata = s.rdata := rfl
@[simp] theorem emitWakeIrq_wakeIrq (s : State) : (emitWakeIrq s).wakeIrq = true := rfl
@[simp] theorem emitWakeIrq_asleep (s : State) : (emitWakeIrq s).asleep = false := rfl
@[simp] theorem emitWakeIrq_program (s : State) : (emitWakeIrq s).program = s.program := rfl
@[simp] theorem emitWakeIrq_duty (s : State) : (emitWakeIrq s).duty = s.duty := rfl
@[simp] theorem emitWakeIrq_samples (s : State) : (emitWakeIrq s).samples = s.samples := rfl
@[simp] theorem emitWakeIrq_schedule (s : State) : (emitWakeIrq s).schedule = s.schedule := rfl
@[simp] theorem emitWakeIrq_round (s : State) : (emitWakeIrq s).round = s.round := rfl
@[simp] theorem emitWakeIrq_draws (s : State) : (emitWakeIrq s).draws = s.draws := rfl

@[simp] theorem resetState_block (s : State) : (resetState s).block = blockAtReset s.draws := rfl
@[simp] theorem resetState_rdata (s : State) : (resetState s).rdata = none := rfl
@[simp] theorem resetState_wakeIrq (s : State) : (resetState s).wakeIrq = false := rfl
@[simp] theorem resetState_asleep (s : State) : (resetState s).asleep = s.asleep := rfl
@[simp] theorem resetState_program (s : State) : (resetState s).program = s.program := rfl
@[simp] theorem resetState_duty (s : State) : (resetState s).duty = s.duty := rfl
@[simp] theorem resetState_samples (s : State) : (resetState s).samples = s.samples := rfl
@[simp] theorem resetState_schedule (s : State) : (resetState s).schedule = s.schedule := rfl
@[simp] theorem resetState_round (s : State) : (resetState s).round = s.round := rfl
@[simp] theorem resetState_draws (s : State) : (resetState s).draws = s.draws + 1 := rfl

@[simp] theorem fallAsleep_block (s : State) : (fallAsleep s).block = s.block := rfl
@[simp] theorem fallAsleep_rdata (s : State) : (fallAsleep s).rdata = none := rfl
@[simp] theorem fallAsleep_wakeIrq (s : State) : (fallAsleep s).wakeIrq = false := rfl
@[simp] theorem fallAsleep_asleep (s : State) : (fallAsleep s).asleep = true := rfl
@[simp] theorem fallAsleep_program (s : State) : (fallAsleep s).program = s.program := rfl
@[simp] theorem fallAsleep_duty (s : State) : (fallAsleep s).duty = s.duty := rfl
@[simp] theorem fallAsleep_samples (s : State) : (fallAsleep s).samples = s.samples := rfl
@[simp] theorem fallAsleep_schedule (s : State) : (fallAsleep s).schedule = s.schedule := rfl
@[simp] theorem fallAsleep_round (s : State) : (fallAsleep s).round = s.round := rfl
@[simp] theorem fallAsleep_draws (s : State) : (fallAsleep s).draws = s.draws := rfl

@[simp] theorem setPhase_block (p : DutyPhase) (s : State) : (setPhase p s).block = s.block := rfl
@[simp] theorem setPhase_rdata (p : DutyPhase) (s : State) : (setPhase p s).rdata = s.rdata := rfl
@[simp] theorem setPhase_wakeIrq (p : DutyPhase) (s : State) : (setPhase p s).wakeIrq = s.wakeIrq := rfl
@[simp] theorem setPhase_asleep (p : DutyPhase) (s : State) : (setPhase p s).asleep = s.asleep := rfl
@[simp] theorem setPhase_program (p : DutyPhase) (s : State) : (setPhase p s).program = s.program := rfl
@[simp] theorem setPhase_duty (p : DutyPhase) (s : State) : (setPhase p s).duty = { s.duty with phase := p } := rfl
@[simp] theorem setPhase_samples (p : DutyPhase) (s : State) : (setPhase p s).samples = s.samples := rfl
@[simp] theorem setPhase_schedule (p : DutyPhase) (s : State) : (setPhase p s).schedule = s.schedule := rfl
@[simp] theorem setPhase_round (p : DutyPhase) (s : State) : (setPhase p s).round = s.round := rfl
@[simp] theorem setPhase_draws (p : DutyPhase) (s : State) : (setPhase p s).draws = s.draws := rfl

@[simp] theorem takeTurn_block (s : State) : (takeTurn s).block = s.block := by unfold takeTurn; split <;> rfl
@[simp] theorem takeTurn_rdata (s : State) : (takeTurn s).rdata = s.rdata := by unfold takeTurn; split <;> rfl
@[simp] theorem takeTurn_wakeIrq (s : State) : (takeTurn s).wakeIrq = s.wakeIrq := by unfold takeTurn; split <;> rfl
@[simp] theorem takeTurn_asleep (s : State) : (takeTurn s).asleep = s.asleep := by unfold takeTurn; split <;> rfl
@[simp] theorem takeTurn_program (s : State) : (takeTurn s).program = s.program := by unfold takeTurn; split <;> rfl
@[simp] theorem takeTurn_duty (s : State) : (takeTurn s).duty = s.duty := by unfold takeTurn; split <;> rfl
@[simp] theorem takeTurn_samples (s : State) : (takeTurn s).samples = s.samples := by unfold takeTurn; split <;> rfl
@[simp] theorem takeTurn_draws (s : State) : (takeTurn s).draws = s.draws := by unfold takeTurn; split <;> rfl

/-- A turn taken from a schedule uses up its head and leaves whose turn it is after the schedule. -/
theorem takeTurn_of_schedule (s : State) (a : Agent) (rest : List Agent) (h : s.schedule = a :: rest) :
    nextAgent s = a ∧ takeTurn s = { s with schedule := rest } := by
  simp [nextAgent, takeTurn, h]

/-- With no schedule the next free round begins, and its other turns are the schedule from there on. -/
theorem takeTurn_of_no_schedule (s : State) (h : s.schedule = []) :
    nextAgent s = (freeRound s.round).headD .host ∧
    takeTurn s = { s with schedule := (freeRound s.round).tail, round := s.round + 1 } := by
  simp [nextAgent, takeTurn, h]

/-- A round is never empty. -/
theorem turnRound_ne_nil (beforeHost beforeTimer : Nat → List Agent) (n : Nat) :
    turnRound beforeHost beforeTimer n ≠ [] := by
  simp [turnRound]

/-- Whose turn it is, followed by the schedule that this turn leaves, is the schedule, or a whole free round. -/
theorem nextAgent_cons_takeTurn (s : State) :
    nextAgent s :: (takeTurn s).schedule = if s.schedule = [] then freeRound s.round else s.schedule := by
  cases h : s.schedule with
  | cons a rest => simp [takeTurn_of_schedule s a rest h]
  | nil =>
    obtain ⟨e₁, e₂⟩ := takeTurn_of_no_schedule s h
    rw [e₁, e₂]
    cases hr : freeRound s.round with
    | nil => exact absurd hr (turnRound_ne_nil _ _ _)
    | cons a rest => simp

end Sys2Proof.Machine
end

