-- ==== Sys2Proof/Laws/Ops.lean ====
section
/-! SUPPORT. What each shared operation can do, said once: the timeout, the tick, an operation's effect as a function, a
line's effect, and a program's lines as a fold. -/

namespace Sys2Proof.Machine

/-- The bits of STATUS. -/
theorem statusWord_getLsbD (b : Block) (i : Nat) :
    (statusWord b).getLsbD i =
      (if i = 0 then b.wake else if i = 1 then b.armed else if i = 2 then b.ie else if i = 3 then b.trs else false) := by
  have low : ∀ (t e a w : Bool) (k : Fin 16),
      (0#12 ++ BitVec.ofBool t ++ BitVec.ofBool e ++ BitVec.ofBool a ++ BitVec.ofBool w : BitVec 16).getLsbD k =
        (if k.val = 0 then w else if k.val = 1 then a else if k.val = 2 then e else if k.val = 3 then t else false) := by
    decide
  by_cases h : i < 16
  · exact low b.trs b.ie b.armed b.wake ⟨i, h⟩
  · rw [BitVec.getLsbD_of_ge _ _ (by omega)]
    simp [show i ≠ 0 by omega, show i ≠ 1 by omega, show i ≠ 2 by omega, show i ≠ 3 by omega]

/-- The bits of f: the feedback enters bit 0, every other bit comes from the one below it. -/
theorem shiftIn_getLsbD (s : Word) (i : Nat) :
    (shiftIn s).getLsbD i = (if i = 0 then feedback s else decide (i < 16) && s.getLsbD (i - 1)) := by
  rcases i with _ | i <;> simp [shiftIn, BitVec.getLsbD_shiftLeft]

/-- A timeout as one record update. -/
theorem timeout_eq (s : State) :
    timeout s = { s with block := { s.block with wake := true },
                         wakeIrq := s.wakeIrq || s.block.ie, asleep := s.asleep && !s.block.ie } := by
  unfold timeout
  split <;> simp_all [emitWakeIrq, setWake]

/-- A tick with CNT > 1. -/
theorem tick_of_lt (period : Nat) (s : State) (h : 1 < s.block.cnt) :
    tick period s = setCnt (s.block.cnt - 1) (quiet s) := if_pos h

/-- A tick with CNT at its end. -/
theorem tick_of_not_lt (period : Nat) (s : State) (h : ¬ 1 < s.block.cnt) :
    tick period s = timeout (setCnt period (quiet s)) := if_neg h

/-- Whatever a tick does, it leaves these alone. -/
theorem timerTick_frame (period : Nat) (s : State) :
    (timerTick period s).block.lfsr = s.block.lfsr ∧ (timerTick period s).block.armed = s.block.armed ∧
    (timerTick period s).block.ie = s.block.ie ∧ (timerTick period s).block.trs = s.block.trs ∧
    (timerTick period s).rdata = none ∧ (timerTick period s).program = s.program ∧
    (timerTick period s).duty = s.duty ∧ (timerTick period s).samples = s.samples ∧
    (timerTick period s).schedule = s.schedule ∧ (timerTick period s).round = s.round ∧
    (timerTick period s).draws = s.draws := by
  unfold timerTick tick
  split
  · split <;> simp [timeout_eq]
  · simp

/-- CNT after a tick while Armed (R123). -/
theorem timerTick_cnt (period : Nat) (s : State) (h : s.block.armed = true) :
    (timerTick period s).block.cnt = if 1 < s.block.cnt then s.block.cnt - 1 else period := by
  simp only [timerTick, h, tick, if_true]
  split <;> simp [timeout_eq]

/-- WAKE after a tick while Armed (R124, R26). -/
theorem timerTick_wake (period : Nat) (s : State) (h : s.block.armed = true) :
    (timerTick period s).block.wake = (s.block.wake || decide (¬ 1 < s.block.cnt)) := by
  simp only [timerTick, h, tick, if_true]
  split <;> simp_all [timeout_eq]

/-- wake_irq in a tick while Armed (R124, R126). -/
theorem timerTick_wakeIrq (period : Nat) (s : State) (h : s.block.armed = true) :
    (timerTick period s).wakeIrq = (decide (¬ 1 < s.block.cnt) && s.block.ie) := by
  simp only [timerTick, h, tick, if_true]
  split <;> simp_all [timeout_eq]

/-- The state an operation leads to. -/
def opEffect (i : Instr) (s : State) : State :=
  match i with
  | .next   => respond (nextValue s.block.lfsr) (setLfsr (nextValue s.block.lfsr) s)
  | .peek   => respond s.block.lfsr s
  | .stat   => respond (statusWord s.block) s
  | .seed d => quiet (setLfsr (wholeOperand d) s)
  | .ack d  => quiet (setWake (wakeAfterAck d s.block.wake) s)
  | .ctrl d => ctrlEffect Config.periodTicks d s

theorem exec_eq_opEffect (i : Instr) (s : State) : exec i s = .next (opEffect i s) := by cases i <;> rfl

/-- No operation touches the host's side or emits wake_irq. -/
theorem opEffect_frame (i : Instr) (s : State) :
    (opEffect i s).wakeIrq = false ∧ (opEffect i s).asleep = s.asleep ∧ (opEffect i s).program = s.program ∧
    (opEffect i s).duty = s.duty ∧ (opEffect i s).samples = s.samples ∧ (opEffect i s).schedule = s.schedule ∧
    (opEffect i s).round = s.round ∧ (opEffect i s).draws = s.draws := by
  cases i <;> simp [opEffect, ctrlEffect]
  split <;> simp

/-- While Armed no operation changes ARMED, IE, TRS or CNT. -/
theorem opEffect_armed (i : Instr) (s : State) (h : s.block.armed = true) :
    (opEffect i s).block.armed = true ∧ (opEffect i s).block.ie = s.block.ie ∧
    (opEffect i s).block.trs = s.block.trs ∧ (opEffect i s).block.cnt = s.block.cnt := by
  cases i <;> simp [opEffect, ctrlEffect, h]

/-- The state a line leads to. -/
def lineEffect (s : State) (l : Line) : State :=
  match l with
  | .op i  => opEffect i s
  | .tick  => timerTick Config.periodTicks s
  | .reset => resetState s

theorem lineStep_eq_lineEffect (l : Line) (s : State) : lineStep l s = .next (lineEffect s l) := by
  cases l with
  | op i  => exact exec_eq_opEffect i s
  | tick  => rfl
  | reset => rfl

/-- A program's lines are a fold of their effects. -/
theorem runLines_eq_foldl (ls : List Line) (s : State) : runLines ls s = .next (ls.foldl lineEffect s) := by
  induction ls generalizing s with
  | nil => rfl
  | cons l rest ih => simp [runLines, lineStep_eq_lineEffect, ih]

/-- The values NEXT lines return, one line at a time. -/
theorem nextReads_cons (l : Line) (rest : List Line) (s : State) :
    nextReads (l :: rest) s =
      (if l = .op .next then (lineEffect s l).rdata.toList else []) ++ nextReads rest (lineEffect s l) := by
  simp [nextReads, lineStep_eq_lineEffect]

/-- A property that every line keeps holds after a program's lines. -/
theorem foldl_lineEffect_induct {P : State → Prop} (ls : List Line) (s : State) (h : P s)
    (keep : ∀ l ∈ ls, ∀ t, P t → P (lineEffect t l)) : P (ls.foldl lineEffect s) := by
  induction ls generalizing s with
  | nil => exact h
  | cons l rest ih =>
    exact ih _ (keep l (by simp) s h) fun m hm t ht => keep m (by simp [hm]) t ht

end Sys2Proof.Machine
end

