-- ==== Sys2Proof/Laws/Lfsr.lean ====
section
/-! SUPPORT. The recurrence f of R84 is linear over XOR, so any number of NEXTs can be computed by squaring its columns. -/

namespace Sys2Proof.Machine

/-- f is linear over XOR: a shift and an XOR of taps (R81). -/
theorem shiftIn_xor (a b : Word) : shiftIn (a ^^^ b) = shiftIn a ^^^ shiftIn b := by
  apply BitVec.eq_of_getLsbD_eq
  intro i hi
  rw [BitVec.getLsbD_xor, shiftIn_getLsbD, shiftIn_getLsbD, shiftIn_getLsbD]
  split
  · simp only [feedback, BitVec.getLsbD_xor]
    generalize a.getLsbD 15 = a1; generalize a.getLsbD 14 = a2; generalize a.getLsbD 12 = a3; generalize a.getLsbD 3 = a4
    generalize b.getLsbD 15 = b1; generalize b.getLsbD 14 = b2; generalize b.getLsbD 12 = b3; generalize b.getLsbD 3 = b4
    revert a1 a2 a3 a4 b1 b2 b3 b4; decide
  · simp [hi]
/-- "an all-zero state is a fixed point of this recurrence" (R84) -/
theorem shiftIn_zero : shiftIn 0#16 = 0#16 := by decide

/-- A linear map given by its columns, the images of the single bits from bit 0 on, applied to a word. -/
def applyCols : List Word → Word → Word
  | [], _ => 0#16
  | c :: cs, s => (if s.getLsbD 0 then c else 0#16) ^^^ applyCols cs (s >>> 1)

/-- Linear over XOR. -/
def Linear (g : Word → Word) : Prop := g 0#16 = 0#16 ∧ ∀ a b, g (a ^^^ b) = g a ^^^ g b
/-- The images of `n` single bits, from `b` upwards. -/
def colsFrom (g : Word → Word) : Nat → Word → List Word
  | 0, _ => []
  | n+1, b => g b :: colsFrom g n (b <<< 1)
/-- The columns of a map. -/
def colsOf (g : Word → Word) : List Word := colsFrom g 16 1#16

/-- A linear map is what its columns say. -/
theorem applyCols_colsOf (g) (h : Linear g) (s : Word) : applyCols (colsOf g) s = g s := by
  have key : ∀ n b s, s.toNat < 2^n → (∃ k, b = 1#16 <<< k ∧ k + n ≤ 16) → applyCols (colsFrom g n b) s = g (s * b) := by
    intro n
    induction n with
    | zero => 
      intro b s hs _
      have : s = 0#16 := BitVec.eq_of_toNat_eq (by simpa using hs)
      subst this; simp [colsFrom, applyCols, h.1]
    | succ n ih =>
      rintro b s hs ⟨k, rfl, hk⟩
      simp only [colsFrom, applyCols]
      rw [ih (1#16 <<< k <<< 1) (s >>> 1) (by simp [Nat.shiftRight_eq_div_pow]; omega) ⟨k+1, by rw [BitVec.shiftLeft_add], by omega⟩]
      have hsplit : s * 1#16 <<< k = (if s.getLsbD 0 then 1#16 <<< k else 0#16) ^^^ ((s >>> 1) * (1#16 <<< k <<< 1)) := by
        have e1 : ∀ (t : Word) (m : Nat), t * 1#16 <<< m = t <<< m := by
          intro t m; rw [BitVec.mul_comm, ← BitVec.twoPow_eq, BitVec.mul_comm, BitVec.mul_twoPow_eq_shiftLeft]
        rw [← BitVec.shiftLeft_add, e1, e1]
        apply BitVec.eq_of_getLsbD_eq
        intro i hi
        rw [BitVec.getLsbD_xor, BitVec.getLsbD_shiftLeft, BitVec.getLsbD_shiftLeft, BitVec.getLsbD_ushiftRight]
        by_cases h0 : i = k
        · subst h0; simp only [hi, lt_irrefl, Nat.sub_self]
          cases hb : s.getLsbD 0 <;> simp [hi]
        · have : (if s.getLsbD 0 = true then 1#16 <<< k else 0#16).getLsbD i = false := by
            split
            · rw [BitVec.getLsbD_shiftLeft]; simp; intro _ _; omega
            · simp
          rw [this]; simp only [Bool.false_xor, hi, decide_true, Bool.true_and]
          by_cases h1 : i < k
          · simp [h1, show i < k + 1 by omega]
          · simp [h1, show ¬ i < k + 1 by omega]; congr 1; omega
      rw [hsplit, h.2]
      congr 1
      split
      · rfl
      · exact h.1.symm
  have := key 16 1#16 s s.isLt ⟨0, by simp, by simp⟩
  simpa [colsOf] using this

theorem linear_iterate (n) : Linear (shiftIn^[n]) := by
  induction n with
  | zero => exact ⟨rfl, fun _ _ => rfl⟩
  | succ n ih => 
    rw [Function.iterate_succ']
    exact ⟨by rw [Function.comp, ih.1, shiftIn_zero], fun a b => by simp only [Function.comp]; rw [ih.2, shiftIn_xor]⟩

theorem colsFrom_comp (g k n b) : colsFrom (fun s => g (k s)) n b = (colsFrom k n b).map g := by
  induction n generalizing b with
  | zero => rfl
  | succ n ih => simp [colsFrom, ih]

/-- The columns of a map applied twice. -/
def squareCols (cs : List Word) : List Word := cs.map (applyCols cs)
/-- The columns of f applied 2^k times, by squaring. -/
def powerCols : Nat → List Word
  | 0 => colsOf shiftIn
  | k+1 => squareCols (powerCols k)
theorem powerCols_eq (k) : powerCols k = colsOf (shiftIn^[2^k]) := by
  induction k with
  | zero => rfl
  | succ k ih =>
    rw [powerCols, squareCols, ih]
    have : shiftIn^[2^(k+1)] = fun s => shiftIn^[2^k] (shiftIn^[2^k] s) := by
      rw [Nat.pow_succ, Nat.mul_comm, Nat.two_mul, Function.iterate_add]; rfl
    rw [this, colsOf, colsFrom_comp]
    exact List.map_congr_left fun s _ => applyCols_colsOf _ (linear_iterate _) s
/-- f applied 2^k times, computed from its columns. -/
theorem powerCols_apply (k s) : applyCols (powerCols k) s = shiftIn^[2^k] s := by rw [powerCols_eq, applyCols_colsOf _ (linear_iterate _)]

end Sys2Proof.Machine
end

