-- ==== Sys2Proof/Laws/PerInstr.lean ====
section
/-! SUPPORT. Per operation: its encoding is a word of the opcode map and no reserved one. -/

namespace Sys2Proof.Laws.MappedWord

/-- The op word of the operation is not reserved (R63, R65). -/
def Statement (i : Instr) : Prop := (encode i).wellFormed = true

theorem next : Statement .next := rfl
theorem peek : Statement .peek := rfl
theorem stat : Statement .stat := rfl
theorem seed (d : Word) : Statement (.seed d) := rfl
theorem ack (d : Word) : Statement (.ack d) := rfl
theorem ctrl (d : Word) : Statement (.ctrl d) := rfl

end Sys2Proof.Laws.MappedWord
end

