-- ==== Sys2Proof/Laws/Step.lean ====
section
/-! SUPPORT. What one step can do, said once: every later invariant is a case analysis over these. -/

namespace Sys2Proof.Machine

/-- A completed access is its operation's effect. -/
theorem performAccess_next {x : BusAccess} {s t : State} (h : performAccess x s = .next t) :
    ∃ i, fetchAccess x = .ok i ∧ t = opEffect i s := by
  unfold performAccess at h
  split at h
  · rename_i i hi
    rw [exec_eq_opEffect] at h
    cases h
    exact ⟨i, hi, rfl⟩
  · cases h

theorem performAccess_of_fetch {x : BusAccess} {i : Instr} (h : fetchAccess x = .ok i) (s : State) :
    performAccess x s = .next (opEffect i s) := by
  simp [performAccess, h, exec_eq_opEffect]

/-- The reference host's three accesses. -/
theorem fetch_readRand : fetchAccess readRand = .ok .next := rfl
theorem fetch_readStatus : fetchAccess readStatus = .ok .stat := rfl
theorem fetch_writeStatusOne : fetchAccess writeStatusOne = .ok (.ack 1#16) := rfl

/-- One step of the reference host: its block operation, if it has one, and then only its own state. -/
theorem dutyStep_cases {s t : State} (h : dutyStep s = .next t) :
    (∃ i d, dutyOp s.duty.phase = some i ∧ t = { opEffect i s with duty := d }) ∨
    (dutyOp s.duty.phase = none ∧ t.block = s.block ∧ t.wakeIrq = false ∧ t.rdata = none ∧
      (t.asleep = s.asleep ∨ (s.duty.phase = .enterSleep ∧ t.asleep = true))) := by
  unfold dutyStep at h
  split at h <;> rename_i hp
  · rw [performAccess_of_fetch fetch_readStatus] at h; cases h; exact .inl ⟨.stat, _, by rw [hp]; rfl, rfl⟩
  · rw [performAccess_of_fetch fetch_writeStatusOne] at h; cases h; exact .inl ⟨.ack 1#16, _, by rw [hp]; rfl, rfl⟩
  · cases h
    refine .inr ⟨by rw [hp]; rfl, ?_⟩
    simp only [takeSample]
    split <;> simp
  · rw [performAccess_of_fetch fetch_readRand] at h; cases h; exact .inl ⟨.next, _, by rw [hp]; rfl, rfl⟩
  · rw [performAccess_of_fetch fetch_readRand] at h; cases h; exact .inl ⟨.next, _, by rw [hp]; rfl, rfl⟩
  · cases h; exact .inr ⟨by rw [hp]; rfl, rfl, rfl, rfl, .inl rfl⟩
  · cases h; exact .inr ⟨by rw [hp]; rfl, rfl, rfl, rfl, .inl rfl⟩
  · cases h; exact .inr ⟨by rw [hp]; rfl, rfl, rfl, rfl, .inr ⟨hp, rfl⟩⟩

/-- The host's turn: nothing (asleep or done), an access, going to sleep, or a step of the reference host. -/
theorem hostStep_cases {s t : State} (h : hostStep s = .next t) :
    ((s.asleep = true ∨ s.program = []) ∧ t = quiet s) ∨
    (∃ x rest i, s.asleep = false ∧ s.program = .access x :: rest ∧ fetchAccess x = .ok i ∧
      t = opEffect i { s with program := rest }) ∨
    (∃ rest, s.asleep = false ∧ s.program = .sleep :: rest ∧ t = fallAsleep { s with program := rest }) ∨
    (∃ rest, s.asleep = false ∧ s.program = .dutyCycle :: rest ∧ dutyStep s = .next t) := by
  unfold hostStep at h
  split at h
  · rename_i ha; cases h; exact .inl ⟨.inl ha, rfl⟩
  · rename_i ha
    have ha : s.asleep = false := by simpa using ha
    split at h <;> rename_i hp
    · cases h; exact .inl ⟨.inr hp, rfl⟩
    · obtain ⟨i, hi, rfl⟩ := performAccess_next h
      exact .inr (.inl ⟨_, _, i, ha, hp, hi, rfl⟩)
    · cases h; exact .inr (.inr (.inl ⟨_, ha, hp, rfl⟩))
    · exact .inr (.inr (.inr ⟨_, ha, hp, h⟩))

/-- One step: the turn of the next agent, from the state with that turn used up. -/
theorem step_cases {s t : State} (h : step s = .next t) :
    (nextAgent s = .host ∧ hostStep (takeTurn s) = .next t) ∨
    (nextAgent s = .timer ∧ t = timerTick Config.periodTicks (takeTurn s)) ∨
    (nextAgent s = .reset ∧ t = resetState (takeTurn s)) := by
  unfold step agentStep at h
  split at h <;> rename_i ha
  · exact .inl ⟨ha, h⟩
  · cases h; exact .inr (.inl ⟨ha, rfl⟩)
  · cases h; exact .inr (.inr ⟨ha, rfl⟩)

/-- No step of the reference host touches the turns to come. -/
theorem dutyStep_turns {s t : State} (h : dutyStep s = .next t) : t.schedule = s.schedule ∧ t.round = s.round := by
  unfold dutyStep at h
  split at h
  · rw [performAccess_of_fetch fetch_readStatus] at h; cases h; simp [opEffect_frame]
  · rw [performAccess_of_fetch fetch_writeStatusOne] at h; cases h; simp [opEffect_frame]
  · cases h
    simp only [takeSample]
    split <;> simp
  · rw [performAccess_of_fetch fetch_readRand] at h; cases h; simp [opEffect_frame]
  · rw [performAccess_of_fetch fetch_readRand] at h; cases h; simp [opEffect_frame]
  all_goals cases h; simp

/-- No agent touches the turns to come: a step only uses up its own. -/
theorem step_turns {s t : State} (h : step s = .next t) :
    t.schedule = (takeTurn s).schedule ∧ t.round = (takeTurn s).round := by
  obtain ⟨-, h⟩ | ⟨-, rfl⟩ | ⟨-, rfl⟩ := step_cases h
  · obtain ⟨-, rfl⟩ | ⟨_, _, _, -, -, -, rfl⟩ | ⟨_, -, -, rfl⟩ | ⟨_, -, -, h⟩ := hostStep_cases h
    · simp
    · simp [opEffect_frame]
    · simp
    · exact dutyStep_turns h
  · simp [timerTick_frame]
  · exact ⟨rfl, rfl⟩

end Sys2Proof.Machine
end

