-- ==== Sys2Proof/Laws/Run.lean ====
section
/-! SUPPORT. A run of several steps, unrolled one step at a time. -/

namespace Sys2Proof.Machine

/-- A run whose first step goes on is the rest of the run. -/
theorem run_succ_of_next {s t : State} (h : step s = .next t) (k : Nat) :
    Host.Core.run Sys2Proof.core (k + 1) s = Host.Core.run Sys2Proof.core k t := by
  have h : Sys2Proof.core.step s = Host.Outcome.next t := h
  simp [Host.Core.run, h]

/-- A run whose first step is refused is refused: the refusal is kept for the rest of the run (R66). -/
theorem run_succ_of_refused {s : State} {r : Refusal} (h : step s = .refused r) (k : Nat) :
    Host.Core.run Sys2Proof.core (k + 1) s = .refused r := by
  have h : Sys2Proof.core.step s = Host.Outcome.refused r := h
  simp [Host.Core.run, h]

end Sys2Proof.Machine
end

