-- ==== Sys2Proof/Tests/Slice0.lean ====
section
/-! SUPPORT. Tests: expected values from 95_test_vectors.md, 30_encoding.md and the rules' own worked examples; and for each
statement with hypotheses a concrete case that meets them. -/

namespace Sys2Proof.Machine.Test

/-- A machine with a given block and nothing scheduled. -/
def mk (lfsr : Word) (armed ie wake trs : Bool) (cnt : Nat) : State :=
  { block := { lfsr, armed, ie, wake, trs, cnt }, rdata := none, wakeIrq := false, asleep := false, program := [],
    duty := { phase := .checkWake, lightMode := .dark, outputMask := 0#4, drivable := false }, samples := [],
    schedule := [], round := 0, draws := 0 }

/-- The next state, if there is one. -/
def next? (o : Host.Outcome State Fault Refusal) : Option State :=
  match o with
  | .next s    => some s
  | .fault _   => none
  | .refused _ => none

def block? (o : Host.Outcome State Fault Refusal) : Option Block := (next? o).map State.block
def rdata? (o : Host.Outcome State Fault Refusal) : Option Word := (next? o).bind State.rdata

/-! ### The words of the opcode map (R63, opcode_table.json), written out bit by bit -/

theorem test_decode_next : decode { op := 0b000#3, data := 0#16 } = .ok .next := by decide
theorem test_decode_peek : decode { op := 0b001#3, data := 0#16 } = .ok .peek := by decide
theorem test_decode_stat : decode { op := 0b010#3, data := 0#16 } = .ok .stat := by decide
theorem test_decode_seed : decode { op := 0b101#3, data := 0x000A#16 } = .ok (.seed 0x000A#16) := by decide
theorem test_decode_ack : decode { op := 0b110#3, data := 0xFFFE#16 } = .ok (.ack 0xFFFE#16) := by decide
theorem test_decode_ctrl : decode { op := 0b111#3, data := 0x0001#16 } = .ok (.ctrl 0x0001#16) := by decide
theorem test_decode_reserved_read : decode { op := 0b011#3, data := 0#16 } = .error .reservedRead3 := by decide
theorem test_decode_reserved_write : decode { op := 0b100#3, data := 7#16 } = .error .reservedWrite0 := by decide
theorem test_table_words : (List.range 8).map (decodeTableWord 8) =
    [some .next, some .peek, some .stat, none, none, some (.seed 0#16), some (.ack 0#16), some (.ctrl 0#16)] := by decide
theorem test_pseudo_arm : encode Instr.arm = { op := 0b111#3, data := 0x0001#16 } := by decide

/-! ### WellFormed refuses each ill-formed term -/

theorem test_illformed_reserved_op : Transaction.wellFormed { op := 0b011#3, data := 0#16 } = false := by decide
theorem test_illformed_width : BusAccess.widthOk { write := false, addr := .register 0#2, width := 1, data := 0#16 } = false := by
  decide
theorem test_illformed_address :
    BusAccess.addressOk 0x100 2 { write := false, addr := .absolute 0x101, width := 2, data := 0#16 } = false := by decide
theorem test_illformed_above_the_registers :
    BusAccess.addressOk 0x100 2 { write := false, addr := .absolute 0x108, width := 2, data := 0#16 } = false := by decide
theorem test_illformed_read_of_ctrl :
    BusAccess.directionOk 0x100 2 { write := false, addr := .absolute 0x106, width := 2, data := 0#16 } = false := by decide
theorem test_illformed_write_of_rand :
    BusAccess.wellFormed 0x100 2 { write := true, addr := .register 0#2, width := 2, data := 0#16 } = false := by decide

/-! ### Host accesses (R41, R43) -/

theorem test_access_by_number : decodeAccess 0x100 2 { write := true, addr := .absolute 0x102, width := 2, data := 10#16 } =
    .ok (.seed 10#16) := by decide
theorem test_access_of_status : decodeAccess 0x100 4 { write := false, addr := .absolute 0x108, width := 2, data := 0#16 } =
    .ok .stat := by decide
theorem test_access_wrong_width :
    decodeAccess 0x100 2 { write := false, addr := .absolute 0x102, width := 4, data := 0#16 } = .error .accessWidth := by decide
theorem test_access_wrong_address :
    decodeAccess 0x100 2 { write := false, addr := .absolute 0xFF, width := 2, data := 0#16 } = .error .accessAddress := by decide

/-! ### LFSR16 (95_test_vectors.md §2.1, §2.2, §2.3) -/

theorem test_next_corner_table : [0x0000#16, 0x0001#16, 0x000A#16, 0x0008#16, 0x1000#16, 0x4000#16, 0x8000#16, 0xD008#16,
    0xFFFF#16, 0x7FFF#16, 0xACE1#16].map nextValue = [0x0002#16, 0x0002#16, 0x0015#16, 0x0011#16, 0x2001#16, 0x8001#16,
    0x0001#16, 0xA010#16, 0xFFFE#16, 0xFFFF#16, 0x59C3#16] := by decide
theorem test_next_from_seed_10 : nextReads (.op (.seed 10#16) :: List.replicate 12 (.op .next)) (mk 0 false false false false 1) =
    [0x0015#16, 0x002A#16, 0x0055#16, 0x00AA#16, 0x0155#16, 0x02AA#16, 0x0555#16, 0x0AAA#16, 0x1555#16, 0x2AAB#16,
     0x5557#16, 0xAAAE#16] := by decide
theorem test_seed_zero_then_peek : rdata? (runLines [.op (.seed 0#16), .op .peek] (mk 7 false false false false 1)) =
    some 0#16 := by decide
theorem test_seed_keeps_the_timer : block? (exec (.seed 0xFFFF#16) (mk 7 true true true false 3)) =
    some (mk 0xFFFF#16 true true true false 3).block := by decide
theorem test_peek_changes_nothing : block? (exec .peek (mk 0x1234#16 true true true true 3)) =
    some (mk 0x1234#16 true true true true 3).block := by decide

/-! ### PWT (95_test_vectors.md §3, T1 to T8c) -/

theorem test_stat_T1 : rdata? (exec .stat (mk 1 false false false true 5)) = some 0x0008#16 := by decide
theorem test_stat_armed_woken : rdata? (exec .stat (mk 1 true true true false 5)) = some 0x0007#16 := by decide
theorem test_ctrl_T3 : rdata? (runLines [.op (.ctrl 0x0001#16), .op .stat] (mk 1 false false false true 5)) = some 0x0006#16 := by
  decide
theorem test_ctrl_T3_loads_the_period : (ctrlEffect 3 0x0001#16 (mk 1 false false false true 5)).block =
    (mk 1 true true false false 3).block := by decide
theorem test_ctrl_T5 : block? (exec (.ctrl 0xFFFE#16) (mk 1 false false false true 5)) = some (mk 1 false false false true 5).block := by
  decide
theorem test_ctrl_T6 : block? (exec (.ctrl 0x0001#16) (mk 1 true true true false 1)) = some (mk 1 true true true false 1).block := by
  decide
theorem test_ack_T8 : block? (exec (.ack 0xFFFE#16) (mk 1 true true true false 4)) = some (mk 1 true true true false 4).block := by
  decide
theorem test_ack_T8b : block? (exec (.ack 0xFFFF#16) (mk 1 true true true false 4)) = some (mk 1 true true false false 4).block := by
  decide

/-! ### The timer (95_test_vectors.md §3, PERIOD_TICKS = 3 and 1) -/

theorem test_tick_counts_down : (timerTick 3 (mk 1 true true false false 3)).block = (mk 1 true true false false 2).block := by
  decide
theorem test_tick_3_times_out : (timerTick 3 (mk 1 true true false false 1)).block = (mk 1 true true true false 3).block ∧
    (timerTick 3 (mk 1 true true false false 1)).wakeIrq = true := by decide
theorem test_period_1_times_out_every_tick : (timerTick 1 (mk 1 true true true false 1)).block = (mk 1 true true true false 1).block ∧
    (timerTick 1 (mk 1 true true true false 1)).wakeIrq = true := by decide
theorem test_timeout_wakes_the_host : (timerTick 1 { mk 1 true true false false 1 with asleep := true }).asleep = false := by decide
theorem test_idle_tick_does_nothing : (timerTick 3 (mk 1 false false false true 1)).block = (mk 1 false false false true 1).block := by
  decide

/-! ### The reference host (95_test_vectors.md §1 S2, S5, §4 iteration 1 and 4) -/

theorem test_threshold_is_light : classifyLight 10 = .light ∧ classifyLight 9 = .dark := by decide
theorem test_tie_never_toggles : toggleOutput 2 0x0155#16 0x0155#16 0b1111#4 = 0b1111#4 := by decide
theorem test_iteration_4_output_1 : toggleOutput 1 43748#16 43923#16 0b1111#4 = 0b1101#4 := by decide

/-! ### A concrete case for the hypotheses of each statement -/

/-- A host access, its turn next, whatever comes after. -/
def withAccess (x : BusAccess) : State := { mk 1 false false false false 1 with program := [.access x], schedule := [.host] }

/-- The reference host at a given phase, its turn next. -/
def atPhase (p : DutyPhase) : State :=
  { mk 1 true true true false 1 with
    program := [.dutyCycle], schedule := List.replicate 5 .host, samples := [9],
    duty := { phase := p, lightMode := .light, outputMask := 0b0101#4, drivable := false } }

theorem test_hyps_HostAccessesAndOperationsAgree :
    decodeAccess 0x100 2 (encode (.ack 0xFFFF#16)).access = .ok (.ack 0xFFFF#16) ∧ 1 ≤ 2 := by decide
theorem test_hyps_DecodeReadsBackEveryEncoding :
    decodeTableWord 19 (encode (.seed 0xFFFF#16)).number = some (.seed 0xFFFF#16) ∧ 19 ≤ 19 := by decide
theorem test_hyps_MeaningfulAccessesAreTheWellFormedOnes :
    BusAccess.wellFormed 0x100 1 { write := true, addr := .absolute 0x103, width := 2, data := 1#16 } = true := by decide

theorem test_hyps_WrongWidth : ∃ (s : State) (x : BusAccess), nextAgent s = .host ∧ s.asleep = false ∧
    s.program = [.access x] ∧ x.width ≠ 2 :=
  ⟨withAccess { readRand with width := 1 }, _, rfl, rfl, rfl, by decide⟩
/-- Both clauses' outer premises at once: the model names the width (log 10). -/
theorem test_hyps_WrongWidthAndAddress : ∃ (s : State) (x : BusAccess), nextAgent s = .host ∧ s.asleep = false ∧
    s.program = [.access x] ∧ x.width ≠ 2 ∧ step s = .refused (.rejected .accessWidth) ∧
    ∀ a : RegIndex, x.addr.value Config.base Config.regStride ≠ regAddress Config.base Config.regStride a := by
  refine ⟨withAccess { readRand with addr := .absolute (Config.base + 4 * Config.regStride), width := 1 }, _,
    rfl, rfl, rfl, by decide, rfl, ?_⟩
  intro a e
  have e : Config.base + 4 * Config.regStride = Config.base + a.toNat * Config.regStride := e
  have := Nat.eq_of_mul_eq_mul_right Config.one_le_regStride (Nat.add_left_cancel e)
  have := a.isLt
  omega
theorem test_hyps_WrongAddress : ∃ x : BusAccess, nextAgent (withAccess x) = .host ∧ (withAccess x).asleep = false ∧
    (withAccess x).program = [.access x] ∧ x.width = 2 ∧
    ∀ a : RegIndex, x.addr.value Config.base Config.regStride ≠ regAddress Config.base Config.regStride a := by
  refine ⟨{ readRand with addr := .absolute (Config.base + 4 * Config.regStride) }, rfl, rfl, rfl, rfl, ?_⟩
  intro a e
  have e : Config.base + 4 * Config.regStride = Config.base + a.toNat * Config.regStride := e
  have := Nat.eq_of_mul_eq_mul_right Config.one_le_regStride (Nat.add_left_cancel e)
  have := a.isLt
  omega
theorem test_hyps_ReservedWordsAreRefused :
    (∃ (s : State) (x : BusAccess), nextAgent s = .host ∧ s.asleep = false ∧ s.program = [.access x] ∧ x.width = 2 ∧
      x.write = false ∧ x.addr.value Config.base Config.regStride = regAddress Config.base Config.regStride 3#2) ∧
    (∃ (s : State) (x : BusAccess), nextAgent s = .host ∧ s.asleep = false ∧ s.program = [.access x] ∧ x.width = 2 ∧
      x.write = true ∧ x.addr.value Config.base Config.regStride = regAddress Config.base Config.regStride 0#2) :=
  ⟨⟨withAccess { readRand with addr := .register 3#2 }, _, rfl, rfl, rfl, rfl, rfl, rfl⟩,
   ⟨withAccess { readRand with write := true }, _, rfl, rfl, rfl, rfl, rfl, rfl⟩⟩
theorem test_hyps_StepPerformsTheDecodedAccess : nextAgent (withAccess readRand) = .host ∧
    (withAccess readRand).asleep = false ∧ (withAccess readRand).program = [.access readRand] ∧
    decodeAccess Config.base Config.regStride readRand = .ok .next := ⟨rfl, rfl, rfl, rfl⟩
theorem test_hyps_StepRunsThePlacedTransaction : decodeTableWord 8 0b101 = some (.seed 0#16) := by decide
/-- The very first step after reset runs the placed operation. -/
theorem test_first_step_after_reset : step (State.reset.withFetchWord 8 0b010) = exec .stat State.reset := rfl
theorem test_hyps_LoadedLinesRunStepByStep : (mk 1 true true false false 1).asleep = false := by decide

theorem test_hyps_ZeroStateIsReseededInOneStep : (mk 0 false false false false 1).block.lfsr = 0#16 ∧
    (mk 1 false false false false 1).block.lfsr = 1#16 := by decide
theorem test_hyps_RecurrencePermutesTheNonZeroValues : (0x8000#16 : Word) ≠ 0#16 ∧
    (mk 0x8000#16 false false false false 1).block.lfsr ≠ 0#16 := by decide
theorem test_hyps_NextHasPeriod65535 : (mk 0xFFFF#16 false false false false 1).block.lfsr ≠ 0#16 ∧
    (mk 0 false false false false 1).block.lfsr = 0#16 := by decide
theorem test_hyps_NextValuesDependOnlyOnTheGenerator :
    [Line.tick, .op .next, .op .stat, .op (.seed 3#16)].filter Line.writesLfsr =
      [Line.op .next, .tick, .op (.ack 1#16), .op (.seed 3#16)].filter Line.writesLfsr ∧
    (mk 5 true true false false 1).block.lfsr = (mk 5 false false false true 9).block.lfsr := by decide

theorem test_hyps_AckClearsWake : (0x0001#16 : Word).getLsbD 0 = true ∧ (0xFFFE#16 : Word).getLsbD 0 = false := by decide
theorem test_hyps_CtrlArmsFromIdle : (0xFFFF#16 : Word).getLsbD 0 = true ∧
    (mk 1 false false false true 1).block.armed = false := by decide
theorem test_hyps_OtherCtrlWritesHaveNoEffect : (0xFFFE#16 : Word).getLsbD 0 = false ∧
    (mk 1 true true false false 1).block.armed = true := by decide
theorem test_hyps_AllButNextAreIdempotent : Instr.peek ≠ .next ∧ Instr.stat ≠ .next ∧ Instr.seed 0 ≠ .next ∧
    Instr.ack 1 ≠ .next ∧ Instr.ctrl 1 ≠ .next := by decide
theorem test_hyps_ReservedDataBitsAreIgnored : (0xFFFF#16 : Word).getLsbD 0 = (0x0001#16 : Word).getLsbD 0 := by decide
theorem test_hyps_StatChangesOnlyByATimeout :
    rdata? (exec .stat (timerTick 3 (mk 1 true true false false 1))) = some 0x0007#16 ∧
    rdata? (exec .stat (mk 1 true true false false 1)) = some 0x0006#16 := by decide
theorem test_hyps_ArmedIsTerminal : (mk 1 true true false false 1).block.armed = true ∧
    Line.reset ∉ [Line.tick, .op (.ctrl 1#16), .op (.ctrl 0#16)] := by decide

/-- The timer's turn next. -/
def timerNext (s : State) : State := { s with schedule := [.timer] }

theorem test_hyps_TickCountsDown : ∃ s : State, nextAgent s = .timer ∧ s.block.armed = true ∧ 1 < s.block.cnt :=
  ⟨timerNext (mk 1 true true false false 2), by decide⟩
theorem test_hyps_TimeoutSetsWakeAndEmits : ∃ s : State, nextAgent s = .timer ∧ s.block.armed = true ∧ s.block.cnt = 1 :=
  ⟨timerNext (mk 1 true true false false 1), by decide⟩
theorem test_hyps_IdleTimerTakesNoStep : ∃ s : State, nextAgent s = .timer ∧ s.block.armed = false :=
  ⟨timerNext (mk 1 false false false true 1), by decide⟩
theorem test_hyps_TimeoutsArePeriodic : (1#16 : Word).getLsbD 0 = true ∧ (mk 1 false false false true 9).block.armed = false ∧
    Line.reset ∉ [Line.tick, .op (.ack 1#16), .tick] := by decide
theorem test_hyps_WakeIrqExactlyAtTimeouts : ∃ t, step (timerNext (mk 1 true true false false 1)) = .next t ∧
    t.wakeIrq = true ∧ timeoutPending (timerNext (mk 1 true true false false 1)) := ⟨_, rfl, rfl, rfl, rfl, le_refl 1⟩
theorem test_hyps_TimeoutOrderedAgainstHostOperations : (mk 1 true true false false 1).block.armed = true ∧
    (mk 1 true true false false 1).block.cnt = 1 ∧ (1#16 : Word).getLsbD 0 = true := by decide
theorem test_hyps_OneAckClearsAnyNumberOfTimeouts : (mk 1 true true true false 2).block.armed = true ∧
    1 ≤ (mk 1 true true true false 2).block.cnt ∧ (0xFFFF#16 : Word).getLsbD 0 = true := by decide

theorem test_hyps_ResetStepResetsTheBlock :
    nextAgent { mk 1 true true true false 2 with schedule := [.reset] } = .reset := by decide
theorem test_hyps_NothingWakesBeforeArming : ∀ d : Word,
    Line.op (.ctrl d) ∈ [Line.tick, .op (.ctrl 0xFFFE#16), .op .stat] → d.getLsbD 0 = false := by
  intro d h
  obtain rfl : d = 0xFFFE#16 := by simpa using h
  decide
theorem test_hyps_ReachableStatesKeepTheThreeFacts : ∃ pre post : List Line,
    [Line.op (.seed 0#16), .op .next, .tick] = pre ++ .op .next :: post ∧ ∀ l ∈ post, l.setsLfsr = false :=
  ⟨[.op (.seed 0#16)], [.tick], rfl, by decide⟩

/-- The invariant holds of an armed machine whose host sleeps. -/
theorem asleep_inv : State.Inv (timerNext { mk 1 true true true false 1 with asleep := true }) where
  coherent := ⟨rfl, fun _ => rfl, fun _ => ⟨le_refl 1, Config.one_le_periodTicks⟩⟩
  irq_wakes := fun h => by cases h
  blank_to_sleep := fun h => by cases h

theorem test_hyps_StepKeepsTheInvariant : ∃ s t : State, s.Inv ∧ step s = .next t := ⟨_, _, asleep_inv, rfl⟩
theorem test_hyps_OnlyTheNamedStepsChangeTheBlock : ∃ s t : State, step s = .next t ∧ t.block.wake ≠ s.block.wake :=
  ⟨timerNext (mk 1 true true false false 1), _, rfl, by decide⟩
theorem test_hyps_OnlyTheNamedSteps_lfsr : ∃ s t : State, step s = .next t ∧ t.block.lfsr ≠ s.block.lfsr :=
  ⟨withAccess readRand, _, rfl, by decide⟩
theorem test_hyps_OnlyTheNamedSteps_armed : ∃ s t : State, step s = .next t ∧ t.block.armed ≠ s.block.armed :=
  ⟨withAccess (encode Instr.arm).access, _, rfl, by decide⟩
theorem test_hyps_OnlyTheNamedSteps_cnt : ∃ s t : State, step s = .next t ∧ t.block.cnt ≠ s.block.cnt :=
  ⟨timerNext (mk 1 true true false false 2), _, rfl, by decide⟩

theorem test_hyps_SleepEndsExactlyAtAWakeIrq :
    (∃ s : State, nextAgent s = .host ∧ s.asleep = false ∧ s.program = [.sleep] ∧ s.block.wake = true) ∧
    (∃ s t : State, s.asleep = true ∧ step s = .next t ∧ t.asleep = false) ∧
    (∃ s t : State, s.asleep = true ∧ s.block.wake = true ∧ step s = .next t ∧ t.asleep = true) :=
  ⟨⟨{ mk 1 true true true false 1 with program := [.sleep], schedule := [.host] }, by decide⟩,
   ⟨timerNext { mk 1 true true true false 1 with asleep := true }, _, rfl, rfl, rfl⟩,
   ⟨timerNext { mk 1 true true true false 2 with asleep := true }, _, rfl, rfl, rfl, rfl⟩⟩
theorem test_hyps_BlockKeepsItsStateWhileTheHostSleeps :
    (timerNext { mk 1 true true true false 1 with asleep := true }).asleep = true ∧
    nextAgent (timerNext { mk 1 true true true false 1 with asleep := true }) ≠ .reset ∧
    nextAgent { mk 1 true true true false 1 with asleep := true, schedule := [.host] } = .host := by decide
theorem test_hyps_EverySleepWhileArmedEnds : ∃ s : State, s.Inv ∧ s.asleep = true ∧ s.block.armed = true ∧
    Agent.reset ∉ s.schedule ∧ s.block.cnt ≤ s.schedule.count .timer := ⟨_, asleep_inv, by decide⟩
theorem test_hyps_TurnsFollow_schedule : ∃ s t : State, step s = .next t ∧ s.schedule ≠ [] :=
  ⟨timerNext (mk 1 true true false false 1), _, rfl, by decide⟩
/-- With nothing scheduled and the host asleep, whoever the free round names, the step goes on. -/
theorem test_hyps_TurnsFollow_rounds : ∃ s t : State, step s = .next t ∧ s.schedule = [] := by
  let s : State := { mk 1 true true false false 1 with asleep := true }
  suffices h : ∃ t, agentStep (nextAgent s) (takeTurn s) = .next t from ⟨s, h.choose, h.choose_spec, rfl⟩
  cases nextAgent s with
  | host => exact ⟨quiet (takeTurn s), rfl⟩
  | timer => exact ⟨_, rfl⟩
  | reset => exact ⟨_, rfl⟩
theorem test_hyps_NeitherAgentIsPostponedForever : (Agent.host = .host ∨ Agent.host = .timer) ∧
    (Agent.timer = .host ∨ Agent.timer = .timer) := by decide
/-- Resets, then host and timer, over and over: a fair order with resets in it. -/
theorem test_hyps_RoundsAreExactlyTheFairOrders : ∃ order : Nat → Agent,
    (∀ n, ∃ m, n ≤ m ∧ order m = .host) ∧ (∀ n, ∃ m, n ≤ m ∧ order m = .timer) ∧ order 0 = .reset :=
  ⟨fun n => if n % 3 = 0 then .reset else if n % 3 = 1 then .host else .timer,
   fun n => ⟨3 * n + 1, by omega, by simp [Nat.add_mod]⟩, fun n => ⟨3 * n + 2, by omega, by simp [Nat.add_mod]⟩, rfl⟩
theorem test_hyps_SleepInIdleNeverEnds : ({ mk 1 false false false true 1 with asleep := true } : State).asleep = true ∧
    (mk 1 false false false true 1).block.armed = false := by decide
theorem test_hyps_SleepEntryWindowCostsOnePeriod : ∃ s : State, s.block.armed = true ∧ s.block.cnt = 1 ∧ s.asleep = false ∧
    s.program = [.sleep] ∧ s.schedule = [.timer, .host] :=
  ⟨{ mk 1 true true false false 1 with program := [.sleep], schedule := [.timer, .host] }, by decide⟩

theorem test_hyps_DutyLoopChecksAndClearsWake : ∀ p ∈ [DutyPhase.checkWake, .clearWake], nextAgent (atPhase p) = .host ∧
    (atPhase p).asleep = false ∧ (atPhase p).program = [.dutyCycle] ∧ (atPhase p).duty.phase = p := by decide
theorem test_hyps_LightIsClassifiedAtWakeChecksOnly : nextAgent (atPhase .classify) = .host ∧
    (atPhase .classify).asleep = false ∧ (atPhase .classify).program = [.dutyCycle] ∧
    (atPhase .classify).duty.phase = .classify ∧ (atPhase .classify).samples = 9 :: [] ∧
    (next? (step (atPhase .classify))).map (fun t => t.duty.lightMode) = some .dark := by decide
/-- A sample equal to the threshold gives Light: "boundary is inclusive on the Light side" (R163). -/
theorem test_hyps_LightIsClassified_threshold : nextAgent { atPhase .classify with samples := [10] } = .host ∧
    (next? (step { atPhase .classify with samples := [10] })).map (fun t => (t.duty.lightMode, t.duty.phase)) =
      some (.light, .blankOutputs) := by decide
theorem test_hyps_LightIsClassified_noSample : nextAgent { atPhase .classify with samples := [] } = .host ∧
    ({ atPhase .classify with samples := [] } : State).asleep = false ∧
    ({ atPhase .classify with samples := [] } : State).program = [.dutyCycle] ∧
    ({ atPhase .classify with samples := [] } : State).duty.phase = .classify := by decide
theorem test_hyps_FlickerIterationDrawsFiveAndToggles : (atPhase .drawReference).asleep = false ∧
    (atPhase .drawReference).program = [.dutyCycle] ∧ (atPhase .drawReference).schedule = List.replicate 5 .host ++ [] ∧
    (atPhase .drawReference).duty.phase = .drawReference := by decide
theorem test_hyps_NoTieWithinAFlickerIteration :
    nextReads (List.replicate 5 (.op .next)) (mk 10 false false false false 1) =
      21#16 :: List.ofFn ![42#16, 85#16, 170#16, 341#16] := by decide
theorem test_hyps_LightBranchBlanksThenSleeps : (atPhase .blankOutputs).asleep = false ∧
    (atPhase .blankOutputs).program = [.dutyCycle] ∧
    (atPhase .blankOutputs).schedule = .host :: .host :: List.replicate 3 .host ∧
    (atPhase .blankOutputs).duty.phase = .blankOutputs := by decide

end Sys2Proof.Machine.Test
end

section
/-! PROOFS of the reference host's flicker iteration (R164): what a run of NEXTs returns, what the loop's two drawing steps
do, and the progress of an iteration as an invariant over its draws. -/

namespace Sys2Proof.Machine

/-! ### A run of NEXTs -/

/-- The value that NEXT number `i`, counted from 0, returns from STATE `w` (R81). -/
def nextDraw (w : Word) (i : Nat) : Word := nextValue^[i + 1] w

@[simp] theorem nextValue_nextDraw (w : Word) (i : Nat) : nextValue (nextDraw w i) = nextDraw w (i + 1) :=
  (Function.iterate_succ_apply' nextValue (i + 1) w).symm

theorem nextDraw_nextValue (w : Word) (i : Nat) : nextDraw (nextValue w) i = nextDraw w (i + 1) := rfl

@[simp] theorem opEffect_next_block (s : State) :
    (opEffect .next s).block = { s.block with lfsr := nextValue s.block.lfsr } := rfl

@[simp] theorem opEffect_next_rdata (s : State) : (opEffect .next s).rdata = some (nextValue s.block.lfsr) := rfl

/-- `n` NEXT lines return the first `n` draws. -/
theorem nextReads_replicate_next (n : Nat) (s : State) :
    nextReads (List.replicate n (.op .next)) s = List.ofFn fun i : Fin n => nextDraw s.block.lfsr i := by
  induction n generalizing s with
  | zero => rfl
  | succ n ih =>
    rw [List.replicate_succ, nextReads_cons, ih, List.ofFn_succ]
    simp [lineEffect, nextDraw]

/-- `n + 1` NEXT lines leave the last draw in STATE and the rest of the block alone. -/
theorem foldl_replicate_next_block (n : Nat) (s : State) :
    ((List.replicate (n + 1) (.op .next)).foldl lineEffect s).block = { s.block with lfsr := nextDraw s.block.lfsr n } := by
  induction n generalizing s with
  | zero => rfl
  | succ n ih =>
    rw [List.replicate_succ, List.foldl_cons, ih]
    simp [lineEffect, nextDraw_nextValue]

/-! ### The drawing steps of the loop -/

/-- The turn of an awake host that runs the reference loop is one step of the loop. -/
theorem step_of_dutyCycle {s : State} {rest : List HostAction} {more : List Agent} (awake : s.asleep = false)
    (program : s.program = .dutyCycle :: rest) (schedule : s.schedule = .host :: more) :
    step s = dutyStep { s with schedule := more } := by
  obtain ⟨turn, taken⟩ := takeTurn_of_schedule s .host more schedule
  simp [step, turn, taken, agentStep, hostStep, awake, program]

/-- The reference draw: the outputs become drivable and j is the value of one NEXT (R164). -/
theorem dutyStep_of_drawReference {s : State} (phase : s.duty.phase = .drawReference) :
    dutyStep s = .next { opEffect .next s with
      duty := { s.duty with drivable := true, phase := .drawOutput 0 (nextValue s.block.lfsr) } } := by
  simp [dutyStep, phase, performAccess_of_fetch fetch_readRand, afterOp, lastRead, opEffect_frame]

/-- The draw for output `k`: v is the value of one NEXT, and the output toggles if v > j (R164). -/
theorem dutyStep_of_drawOutput {s : State} {k : Fin 4} {j : Word} (phase : s.duty.phase = .drawOutput k j) :
    dutyStep s = .next { opEffect .next s with
      duty := { s.duty with outputMask := toggleOutput k j (nextValue s.block.lfsr) s.duty.outputMask,
                            phase := phaseAfterOutput k j } } := by
  simp [dutyStep, phase, performAccess_of_fetch fetch_readRand, afterOp, lastRead, opEffect_frame]

/-- A draw for output `k` reaches bit `k` of the mask alone. -/
theorem toggleOutput_getLsbD (k i : Fin 4) (j v : Word) (mask : BitVec 4) :
    (toggleOutput k j v mask).getLsbD i = (mask.getLsbD i ^^ (decide (i = k) && decide (j.toNat < v.toNat))) := by
  have bit : ∀ k i : Fin 4, (1#4 <<< k.val).getLsbD i = decide (i = k) := by decide
  unfold toggleOutput
  split <;> rename_i h
  · rw [BitVec.getLsbD_xor, bit]; simp [h]
  · simp [h]

/-! ### Progress of an iteration -/

/-- The phase in which `n` outputs have been visited (R164). -/
def phaseAtOutput (n : Nat) (j : Word) : DutyPhase := if h : n < 4 then .drawOutput ⟨n, h⟩ j else .delay

theorem phaseAfterOutput_eq (k : Fin 4) (j : Word) : phaseAfterOutput k j = phaseAtOutput (k + 1) j := rfl

/-- `t` stands in the iteration that began in `s`: j has been drawn and the first `n` outputs have been visited, nothing but
host turns came between, and the turns `more` come after the iteration's own. -/
structure FlickerProgress (s : State) (more : List Agent) (n : Nat) (t : State) : Prop where
  awake     : t.asleep = false
  program   : t.program = s.program
  schedule  : t.schedule = List.replicate (4 - n) .host ++ more
  block     : t.block = { s.block with lfsr := nextDraw s.block.lfsr n }
  drivable  : t.duty.drivable = true
  phase     : t.duty.phase = phaseAtOutput n (nextDraw s.block.lfsr 0)
  lightMode : t.duty.lightMode = s.duty.lightMode
  mask      : ∀ k : Fin 4, t.duty.outputMask.getLsbD k = (s.duty.outputMask.getLsbD k ^^
    (decide (k.val < n) && decide ((nextDraw s.block.lfsr 0).toNat < (nextDraw s.block.lfsr (k + 1)).toNat)))

section
variable {s t : State} {rest : List HostAction} {more : List Agent} {n : Nat}

/-- The first turn of an iteration draws j and visits no output. -/
theorem step_begins_flicker (awake : s.asleep = false) (program : s.program = .dutyCycle :: rest)
    (schedule : s.schedule = List.replicate 5 .host ++ more) (phase : s.duty.phase = .drawReference) :
    ∃ t, step s = .next t ∧ FlickerProgress s more 0 t := by
  refine ⟨_, (step_of_dutyCycle awake program schedule).trans (dutyStep_of_drawReference phase), ?_⟩
  constructor <;> simp [opEffect_frame, awake, nextDraw, phaseAtOutput]

/-- Each further turn visits the next output. -/
theorem FlickerProgress.visits_next (h : FlickerProgress s more n t) (program : s.program = .dutyCycle :: rest) (lt : n < 4) :
    ∃ u, step t = .next u ∧ FlickerProgress s more (n + 1) u := by
  have schedule : t.schedule = .host :: (List.replicate (4 - (n + 1)) .host ++ more) := by
    rw [h.schedule, show 4 - n = 4 - (n + 1) + 1 by omega]; rfl
  have phase : t.duty.phase = .drawOutput ⟨n, lt⟩ (nextDraw s.block.lfsr 0) := by simp [h.phase, phaseAtOutput, lt]
  refine ⟨_, (step_of_dutyCycle h.awake (h.program.trans program) schedule).trans (dutyStep_of_drawOutput phase), ?_⟩
  constructor
  case mask =>
    intro k
    simp only [toggleOutput_getLsbD, h.mask, h.block, nextValue_nextDraw, Fin.ext_iff, Bool.xor_assoc]
    obtain lt | eq | gt := Nat.lt_trichotomy k.val n
    · simp [lt, lt.ne, Nat.lt_succ_of_lt lt]
    · simp [eq]
    · simp [gt.ne', Nat.not_lt.2 gt.le, Nat.not_lt.2 (Nat.succ_le_of_lt gt)]
  all_goals simp [opEffect_frame, phaseAfterOutput_eq, h.awake, h.program, h.block, h.drivable, h.lightMode]

/-- Any number of further turns, up to the last output. -/
theorem FlickerProgress.visits_many (h : FlickerProgress s more n t) (program : s.program = .dutyCycle :: rest) (m : Nat)
    (le : n + m ≤ 4) :
    ∃ u, Host.Core.run Sys2Proof.core m t = .next u ∧ FlickerProgress s more (n + m) u := by
  induction m generalizing n t with
  | zero => exact ⟨t, rfl, h⟩
  | succ m ih =>
    obtain ⟨u, hu, visited⟩ := h.visits_next program (by omega)
    obtain ⟨w, hw, done⟩ := ih visited (by omega)
    exact ⟨w, (run_succ_of_next hu m).trans hw, by rwa [show n + (m + 1) = n + 1 + m by omega]⟩

end

/-- Settles O48: the first turn draws j, an induction over the draws visits the four outputs, and the values are those of a
run of five NEXTs. -/
theorem flickerIterationDrawsFiveAndToggles : Obligations.FlickerIterationDrawsFiveAndToggles := by
  intro s rest more awake program schedule phase
  obtain ⟨t₀, first, drawn⟩ := step_begins_flicker awake program schedule phase
  obtain ⟨t, visits, done⟩ := drawn.visits_many program 4 (by omega)
  refine ⟨t, _, nextDraw s.block.lfsr 0, fun k => nextDraw s.block.lfsr (k + 1), (run_succ_of_next first 4).trans visits,
    runLines_eq_foldl _ s, ?_, ?_, done.drivable, done.phase, done.lightMode, ?_⟩
  · rw [nextReads_replicate_next, List.ofFn_succ]; rfl
  · rw [foldl_replicate_next_block 4, done.block]
  · intro k
    simpa using done.mask k

end Sys2Proof.Machine
end

section
/-! PROOFS about the block's state (R20 to R31): what one line can do to the block, said once for programs of lines and for
steps of the machine, and the invariants that follow from it. -/

namespace Sys2Proof.Machine

/-! ### What a line can do to the block -/

/-- The changes that a line can make to the block, with the conditions under which it makes them (R23 to R30). -/
inductive BlockChange (b : Block) : Line → Block → Prop where
  /-- NEXT advances STATE (R81). -/
  | advance : BlockChange b (.op .next) { b with lfsr := nextValue b.lfsr }
  /-- SEED stores its data (R86). -/
  | seed (d : Word) : BlockChange b (.op (.seed d)) { b with lfsr := d }
  /-- ACK with D[0] = 1 clears WAKE (R104). -/
  | clearWake (d : Word) (bit : d.getLsbD 0 = true) : BlockChange b (.op (.ack d)) { b with wake := false }
  /-- CTRL with D[0] = 1 in Idle arms (R106). -/
  | arm (d : Word) (bit : d.getLsbD 0 = true) (idle : b.armed = false) :
      BlockChange b (.op (.ctrl d)) { b with trs := false, cnt := Config.periodTicks, armed := true, ie := true }
  /-- An operation may leave the block as it is. -/
  | keep (i : Instr) : BlockChange b (.op i) b
  /-- A tick with CNT > 1 counts down (R123). -/
  | countDown (armed : b.armed = true) (more : 1 < b.cnt) : BlockChange b .tick { b with cnt := b.cnt - 1 }
  /-- A tick with CNT at its end reloads and times out (R123, R124). -/
  | timeout (armed : b.armed = true) (last : b.cnt ≤ 1) :
      BlockChange b .tick { b with cnt := Config.periodTicks, wake := true }
  /-- In Idle the timer does nothing (R122). -/
  | idleTick (idle : b.armed = false) : BlockChange b .tick b
  /-- A reset gives every element its value of R30. -/
  | reset (n : Nat) : BlockChange b .reset (blockAtReset n)

theorem opEffect_changes (i : Instr) (s : State) : BlockChange s.block (.op i) (opEffect i s).block := by
  cases i with
  | next => exact .advance
  | peek => exact .keep _
  | stat => exact .keep _
  | seed d => exact .seed d
  | ack d =>
    simp only [opEffect, quiet_block, setWake_block, wakeAfterAck]
    split <;> rename_i bit
    · exact .clearWake d bit
    · exact .keep _
  | ctrl d =>
    simp only [opEffect, ctrlEffect]
    split <;> rename_i h
    · obtain ⟨bit, idle⟩ : d.getLsbD 0 = true ∧ s.block.armed = false := by simpa [bitOperand] using h
      exact .arm d bit idle
    · exact .keep _

theorem timerTick_changes (s : State) : BlockChange s.block .tick (timerTick Config.periodTicks s).block := by
  unfold timerTick
  split <;> rename_i armed
  · by_cases more : 1 < s.block.cnt
    · rw [tick_of_lt _ _ more]
      exact .countDown armed more
    · rw [tick_of_not_lt _ _ more, timeout_eq]
      exact .timeout armed (Nat.le_of_not_lt more)
  · exact .idleTick (Bool.eq_false_of_not_eq_true armed)

theorem lineEffect_changes (l : Line) (s : State) : BlockChange s.block l (lineEffect s l).block := by
  cases l with
  | op i => exact opEffect_changes i s
  | tick => exact timerTick_changes s
  | reset => exact .reset s.draws

/-! ### What a step can do to the block -/

/-- The line that the turn about to be taken performs, if it performs one. -/
def pendingLine (s : State) : Option Line :=
  match nextAgent s with
  | .host  => (pendingOp s).map .op
  | .timer => some .tick
  | .reset => some .reset

/-- A turn of the host changes the block by its operation alone. -/
theorem hostStep_changes {s t : State} (turn : nextAgent s = .host) (h : hostStep (takeTurn s) = .next t) :
    t.block = s.block ∨ ∃ i, pendingOp s = some i ∧ BlockChange s.block (.op i) t.block := by
  obtain ⟨-, rfl⟩ | ⟨x, rest, i, awake, program, fetch, rfl⟩ | ⟨rest, -, -, rfl⟩ | ⟨rest, awake, program, h⟩ :=
    hostStep_cases h
  · simp
  · rw [takeTurn_asleep] at awake
    rw [takeTurn_program] at program
    refine .inr ⟨i, by simp [pendingOp, turn, awake, program, fetch, Except.toOption], ?_⟩
    simpa using opEffect_changes i { takeTurn s with program := rest }
  · simp
  · obtain ⟨i, d, op, rfl⟩ | ⟨-, block, -⟩ := dutyStep_cases h
    · rw [takeTurn_asleep] at awake
      rw [takeTurn_program] at program
      rw [takeTurn_duty] at op
      refine .inr ⟨i, by simp [pendingOp, turn, awake, program, op], ?_⟩
      simpa using opEffect_changes i (takeTurn s)
    · exact .inl (block.trans (takeTurn_block s))

/-- A step leaves the block alone or changes it as its line does. -/
theorem step_changes {s t : State} (h : step s = .next t) :
    t.block = s.block ∨ ∃ l, pendingLine s = some l ∧ BlockChange s.block l t.block := by
  obtain ⟨turn, h⟩ | ⟨turn, rfl⟩ | ⟨turn, rfl⟩ := step_cases h
  · obtain same | ⟨i, op, change⟩ := hostStep_changes turn h
    · exact .inl same
    · exact .inr ⟨.op i, by simp [pendingLine, turn, op], change⟩
  · exact .inr ⟨.tick, by simp [pendingLine, turn], by simpa using timerTick_changes (takeTurn s)⟩
  · exact .inr ⟨.reset, by simp [pendingLine, turn], .reset _⟩

theorem pendingLine_op {s : State} {i : Instr} (h : pendingLine s = some (.op i)) : pendingOp s = some i := by
  unfold pendingLine at h
  split at h
  · simpa using h
  · cases h
  · cases h

theorem pendingLine_tick {s : State} (h : pendingLine s = some .tick) : nextAgent s = .timer := by
  unfold pendingLine at h
  split at h
  · simp at h
  · assumption
  · cases h

theorem pendingLine_reset {s : State} (h : pendingLine s = some .reset) : nextAgent s = .reset := by
  unfold pendingLine at h
  split at h
  · simp at h
  · cases h
  · assumption

/-! ### What every change keeps -/

theorem blockAtReset_coherent (n : Nat) : (blockAtReset n).Coherent where
  ie_eq_armed := rfl
  wake_armed := nofun
  cnt_in_range := nofun

/-- Every change of the block keeps the facts of R31 and the range of CNT (R29). -/
theorem BlockChange.coherent {b c : Block} {l : Line} (change : BlockChange b l c) (hb : b.Coherent) : c.Coherent := by
  cases change with
  | advance => exact ⟨hb.ie_eq_armed, hb.wake_armed, hb.cnt_in_range⟩
  | seed d => exact ⟨hb.ie_eq_armed, hb.wake_armed, hb.cnt_in_range⟩
  | clearWake d bit => exact ⟨hb.ie_eq_armed, nofun, hb.cnt_in_range⟩
  | arm d bit idle => exact ⟨rfl, fun _ => rfl, fun _ => ⟨Config.one_le_periodTicks, le_rfl⟩⟩
  | keep i => exact hb
  | countDown armed more =>
    obtain ⟨-, le⟩ := hb.cnt_in_range armed
    exact ⟨hb.ie_eq_armed, hb.wake_armed, fun _ => ⟨Nat.le_sub_one_of_lt more, (Nat.sub_le _ 1).trans le⟩⟩
  | timeout armed last => exact ⟨hb.ie_eq_armed, fun _ => armed, fun _ => ⟨Config.one_le_periodTicks, le_rfl⟩⟩
  | idleTick idle => exact hb
  | reset n => exact blockAtReset_coherent n

/-- While Armed nothing but a reset changes ARMED, IE or TRS (R25, R27, R28). -/
theorem BlockChange.keeps_armed {b c : Block} {l : Line} (change : BlockChange b l c) (armed : b.armed = true)
    (noReset : l ≠ .reset) : c.armed = true ∧ c.ie = b.ie ∧ c.trs = b.trs := by
  cases change with
  | arm d bit idle => simp [idle] at armed
  | reset n => exact absurd rfl noReset
  | _ => exact ⟨armed, rfl, rfl⟩

/-- f maps no other value to 0 (R84): bits 14 to 0 stay in sight, and with them 0 the feedback is bit 15. -/
theorem shiftIn_ne_zero {w : Word} (h : w ≠ 0#16) : shiftIn w ≠ 0#16 := by
  intro zero
  have bits (i : Nat) : (if i = 0 then feedback w else decide (i < 16) && w.getLsbD (i - 1)) = false := by
    rw [← shiftIn_getLsbD, zero, BitVec.getLsbD_zero]
  have low (i : Nat) (lt : i < 15) : w.getLsbD i = false := by
    simpa [show i + 1 < 16 by omega] using bits (i + 1)
  have high : w.getLsbD 15 = false := by
    have fb : feedback w = false := bits 0
    simpa only [feedback, low 14, low 12, low 3, Nat.reduceLT, forall_const, Bool.xor_false] using fb
  refine h (BitVec.eq_of_getLsbD_eq fun i lt => ?_)
  rw [BitVec.getLsbD_zero]
  obtain lt | rfl : i < 15 ∨ i = 15 := by omega
  · exact low i lt
  · exact high

/-- NEXT never yields 0 (R31, R84). -/
theorem nextValue_ne_zero (w : Word) : nextValue w ≠ 0#16 := by
  refine shiftIn_ne_zero ?_
  unfold reseed
  split
  · decide
  · assumption

/-- A line that gives STATE no value of its own leaves a non-zero STATE non-zero (R31). -/
theorem BlockChange.keeps_lfsr_ne_zero {b c : Block} {l : Line} (change : BlockChange b l c)
    (unset : l.setsLfsr = false) (ne : b.lfsr ≠ 0#16) : c.lfsr ≠ 0#16 := by
  cases change with
  | advance => exact nextValue_ne_zero _
  | seed d => cases unset
  | reset n => cases unset
  | _ => exact ne

/-! ### Programs of lines -/

/-- Settles O37: the first two facts are kept by every change of the block; the third holds right after the NEXT, and the
lines after it keep it. -/
theorem reachableStatesKeepTheThreeFacts : Obligations.ReachableStatesKeepTheThreeFacts := by
  intro ls
  have coherent : (ls.foldl lineEffect State.reset).block.Coherent :=
    foldl_lineEffect_induct ls _ (blockAtReset_coherent 0) fun l _ t ht => (lineEffect_changes l t).coherent ht
  refine ⟨_, runLines_eq_foldl ls _, coherent.ie_eq_armed, coherent.wake_armed, ?_⟩
  rintro pre post rfl unset
  rw [List.foldl_append, List.foldl_cons]
  exact foldl_lineEffect_induct (P := fun t => t.block.lfsr ≠ 0#16) post _ (nextValue_ne_zero _)
    fun l mem t ht => (lineEffect_changes l t).keeps_lfsr_ne_zero (unset l mem) ht

/-- Settles O26: an Armed state with the IE and TRS of the start is kept by every line but a reset. -/
theorem armedIsTerminal : Obligations.ArmedIsTerminal := by
  intro ls s armed noReset
  refine ⟨_, runLines_eq_foldl ls s, ?_⟩
  refine foldl_lineEffect_induct (P := fun t => t.block.armed = true ∧ t.block.ie = s.block.ie ∧ t.block.trs = s.block.trs)
    ls s ⟨armed, rfl, rfl⟩ ?_
  rintro l mem t ⟨ht, ie, trs⟩
  obtain ⟨ht', ie', trs'⟩ := (lineEffect_changes l t).keeps_armed ht fun e => noReset (e ▸ mem)
  exact ⟨ht', ie'.trans ie, trs'.trans trs⟩

/-! ### Steps of the machine -/

/-- A wake_irq of the timer's turn comes with WAKE = 1 and an awake host (R124, R137). -/
theorem timerTick_irq_wakes {period : Nat} {s : State} (h : (timerTick period s).wakeIrq = true) :
    (timerTick period s).block.wake = true ∧ (timerTick period s).asleep = false := by
  unfold timerTick tick at h ⊢
  split_ifs at h ⊢
  · simp at h
  · simp_all [timeout_eq]
  · simp at h

/-- No turn of the host emits wake_irq (R126). -/
theorem hostStep_wakeIrq {s t : State} (h : hostStep s = .next t) : t.wakeIrq = false := by
  obtain ⟨-, rfl⟩ | ⟨x, rest, i, -, -, -, rfl⟩ | ⟨rest, -, -, rfl⟩ | ⟨rest, -, -, h⟩ := hostStep_cases h
  · rfl
  · simp [opEffect_frame]
  · rfl
  · obtain ⟨i, d, -, rfl⟩ | ⟨-, -, quiet, -⟩ := dutyStep_cases h
    · simp [opEffect_frame]
    · exact quiet

/-- The reference host comes to its sleep from the blanking of its outputs only (R165). -/
theorem dutyStep_blank_to_sleep {s t : State} (h : dutyStep s = .next t) (phase : t.duty.phase = .enterSleep) :
    t.duty.outputMask = 0#4 ∧ t.duty.drivable = false := by
  have branch (m : LightMode) : branchPhase m ≠ .enterSleep := by cases m <;> nofun
  have after (k : Fin 4) (j : Word) : phaseAfterOutput k j ≠ .enterSleep := by unfold phaseAfterOutput; split <;> nofun
  unfold dutyStep at h
  split at h
  · rw [performAccess_of_fetch fetch_readStatus] at h; cases h
    simp only [setPhase_duty] at phase
    split at phase
    · cases phase
    · exact absurd phase (branch _)
  · rw [performAccess_of_fetch fetch_writeStatusOne] at h; cases h; cases phase
  · cases h; exact absurd phase (branch _)
  · rw [performAccess_of_fetch fetch_readRand] at h; cases h; cases phase
  · rw [performAccess_of_fetch fetch_readRand] at h; cases h; exact absurd phase (after _ _)
  · cases h; cases phase
  · cases h; exact ⟨rfl, rfl⟩
  · cases h; cases phase

/-- A step touches the reference host's state by a step of its loop only. -/
theorem step_duty {s t : State} (h : step s = .next t) :
    t.duty = s.duty ∨ dutyStep (takeTurn s) = .next t := by
  obtain ⟨-, h⟩ | ⟨-, rfl⟩ | ⟨-, rfl⟩ := step_cases h
  · obtain ⟨-, rfl⟩ | ⟨x, rest, i, -, -, -, rfl⟩ | ⟨rest, -, -, rfl⟩ | ⟨rest, -, -, h⟩ := hostStep_cases h
    · simp
    · simp [opEffect_frame]
    · simp
    · exact .inr h
  · simp [timerTick_frame]
  · simp

theorem step_coherent {s t : State} (h : step s = .next t) (hs : s.block.Coherent) : t.block.Coherent := by
  obtain same | ⟨l, -, change⟩ := step_changes h
  · exact same ▸ hs
  · exact change.coherent hs

theorem step_irq_wakes {s t : State} (h : step s = .next t) (irq : t.wakeIrq = true) :
    t.block.wake = true ∧ t.asleep = false := by
  obtain ⟨-, h⟩ | ⟨-, rfl⟩ | ⟨-, rfl⟩ := step_cases h
  · simp [hostStep_wakeIrq h] at irq
  · exact timerTick_irq_wakes irq
  · cases irq

/-- Settles O38: each part of the invariant has its own step lemma. -/
theorem stepKeepsTheInvariant : Obligations.StepKeepsTheInvariant := by
  intro s t hs h
  refine ⟨step_coherent h hs.coherent, step_irq_wakes h, ?_⟩
  obtain same | loop := step_duty h
  · exact same ▸ hs.blank_to_sleep
  · exact dutyStep_blank_to_sleep loop

/-- Settles O40: a case split over the changes that a line can make to the block. -/
theorem onlyTheNamedStepsChangeTheBlock : Obligations.OnlyTheNamedStepsChangeTheBlock := by
  intro s t h
  obtain same | ⟨l, line, change⟩ := step_changes h
  · simp [same]
  · generalize t.block = c at change
    cases change with
    | advance => simp [pendingLine_op line]
    | seed d => simp [pendingLine_op line]
    | clearWake d bit => simp [pendingLine_op line, bit]
    | arm d bit idle => simp [pendingLine_op line, bit, idle]
    | keep i => simp
    | countDown armed more => simp [pendingLine_tick line, armed]
    | timeout armed last => simp [timeoutPending, pendingLine_tick line, armed, last]
    | idleTick idle => simp
    | reset n => simp [pendingLine_reset line]

/-! ### Reset -/

/-- Settles O34: power-up is reset number 0, with the values of R30 (blockAtReset). -/
theorem resetValuesAreTheSpecs : Obligations.ResetValuesAreTheSpecs := ⟨rfl, rfl, rfl, rfl⟩

/-- Settles O35: the reset line's turn is resetState, which draws TRS and CNT by the count of draws. -/
theorem resetStepResetsTheBlock : Obligations.ResetStepResetsTheBlock := by
  intro s turn
  refine ⟨Config.trsDraw s.draws, Config.cntDraw s.draws, ?_⟩
  simp [step, turn, agentStep, resetState, quiet, blockAtReset, resetBlock]

/-- Settles O39: R30's values meet R31's facts, and at reset nothing is emitted and the loop stands at its head. -/
theorem resetMeetsTheInvariant : Obligations.ResetMeetsTheInvariant where
  coherent := blockAtReset_coherent 0
  irq_wakes := nofun
  blank_to_sleep := nofun

end Sys2Proof.Machine
end

section
/-! PROOFS about the memory map and the bus (20_memory.md): which accesses decode and to what (R40 to R43, R65), what the turn
of an awake host does with them, how a program's lines run as turns, and whose turn it is (R48). -/

namespace Sys2Proof

/-! ### Decoding an access -/

theorem decode_encode (i : Instr) : decode (encode i) = .ok i := by cases i <;> simp [decode, encode]

/-- Exactly the transactions with no reserved op word decode (R65). -/
theorem exists_decode_iff (t : Transaction) : (∃ i, decode t = .ok i) ↔ OpWord.reserved t.op = false := by
  obtain ⟨op, d⟩ := t
  have words : ∀ op : OpWord, op = 0 ∨ op = 1 ∨ op = 2 ∨ op = 3 ∨ op = 4 ∨ op = 5 ∨ op = 6 ∨ op = 7 := by decide
  rcases words op with rfl | rfl | rfl | rfl | rfl | rfl | rfl | rfl <;> simp [decode, OpWord.reserved]

/-- The data of a write is its operation's (R62). -/
theorem decode_data {t : Transaction} {i : Instr} (h : decode t = .ok i) (write : t.op.getLsbD 2 = true) :
    t.data = (encode i).data := by
  obtain ⟨op, d⟩ := t
  obtain rfl : op = (encode i).op := decode_op h
  cases i with
  | next | peek | stat => simp [encode] at write
  | seed | ack | ctrl => simpa [decode, encode] using h

theorem opWord_index (w : Bool) (a : RegIndex) : (opWord w a).setWidth 2 = a := by revert w a; decide

theorem opWord_write (w : Bool) (a : RegIndex) : (opWord w a).getLsbD 2 = w := by revert w a; decide

/-- An access has a transaction exactly when it is 16 bits wide at a register's address, and the transaction has its
direction, that register's index and its data (R41, R43, R60). -/
theorem transactionOf_eq_ok {base stride : Nat} (pos : 1 ≤ stride) {x : BusAccess} {t : Transaction} :
    transactionOf base stride x = .ok t ↔
      x.width = 2 ∧ x.addr.value base stride = regAddress base stride (t.op.setWidth 2) ∧
      t.op.getLsbD 2 = x.write ∧ t.data = x.data := by
  rw [← HostAddr.regIndex_eq_some pos]
  unfold transactionOf
  constructor
  · intro h
    split at h
    · rename_i width
      cases address : x.addr.regIndex base stride with
      | none => simp [address] at h
      | some a =>
        obtain rfl : ⟨opWord x.write a, x.data⟩ = t := by simpa [address] using h
        exact ⟨width, congrArg some (opWord_index _ a).symm, opWord_write _ a, rfl⟩
    · cases h
  · rintro ⟨width, address, direction, data⟩
    simp only [width, address, ← direction, ← data, opWord_fields, if_true]

/-- An access performs an operation exactly when its transaction decodes to it. -/
theorem decodeAccess_eq_ok {base stride : Nat} {x : BusAccess} {i : Instr} :
    decodeAccess base stride x = .ok i ↔ ∃ t, transactionOf base stride x = .ok t ∧ decode t = .ok i := by
  unfold decodeAccess
  cases transactionOf base stride x <;> simp

theorem decodeAccess_of_width {base stride : Nat} {x : BusAccess} (width : x.width ≠ 2) :
    decodeAccess base stride x = .error .accessWidth := by
  simp [decodeAccess, transactionOf, width]

theorem decodeAccess_of_address {base stride : Nat} (pos : 1 ≤ stride) {x : BusAccess} (width : x.width = 2)
    (address : ∀ a, x.addr.value base stride ≠ regAddress base stride a) :
    decodeAccess base stride x = .error .accessAddress := by
  simp [decodeAccess, transactionOf, width, (HostAddr.regIndex_eq_none pos x.addr).2 address]

/-- Settles O2: an access decodes to `i` exactly when its transaction has the op word of `i`, and for a write its data. -/
theorem hostAccessesAndOperationsAgree : Obligations.HostAccessesAndOperationsAgree := by
  intro base stride pos i
  refine ⟨(decodeAccess_access base stride (encode i)).trans (decode_encode i), ?_, ?_⟩
  · exact decodeAccess_eq_ok.2 ⟨encode i, (transactionOf_eq_ok pos).2 ⟨rfl, rfl, rfl, rfl⟩, decode_encode i⟩
  · intro x h
    obtain ⟨t, transaction, decoded⟩ := decodeAccess_eq_ok.1 h
    obtain ⟨width, address, direction, data⟩ := (transactionOf_eq_ok pos).1 transaction
    rw [← decode_op decoded]
    exact ⟨width, direction.symm, address, fun write => data ▸ decode_data decoded (direction.trans write)⟩

/-! ### Well-formed accesses -/

theorem BusAccess.widthOk_iff (x : BusAccess) : x.widthOk = true ↔ x.width = 2 := by simp [widthOk]

theorem BusAccess.addressOk_iff (base stride : Nat) (x : BusAccess) :
    x.addressOk base stride = true ↔ ∃ a, x.addr.value base stride = regAddress base stride a := by
  have all : ∀ a : RegIndex, a ∈ regIndices := by decide
  simp [addressOk, all]

/-- At a register's address the direction is one that the register has exactly when the op word is not reserved (R65). -/
theorem BusAccess.directionOk_iff {base stride : Nat} (pos : 1 ≤ stride) {x : BusAccess} {a : RegIndex}
    (address : x.addr.value base stride = regAddress base stride a) :
    x.directionOk base stride = true ↔ OpWord.reserved (opWord x.write a) = false := by
  have reserved : ∀ (w : Bool) (a : RegIndex),
      OpWord.reserved (opWord w a) = false ↔ a ≠ if w then 0#2 else 3#2 := by decide
  have inj : ∀ b, regAddress base stride a = regAddress base stride b ↔ a = b :=
    fun b => ⟨regAddress_inj pos, congrArg _⟩
  rw [reserved, directionOk, address, bne_iff_ne, Ne, inj]

/-- Settles O4: an access with a transaction decodes unless its op word is reserved, and has one exactly at a register's
address with the right width. -/
theorem meaningfulAccessesAreTheWellFormedOnes : Obligations.MeaningfulAccessesAreTheWellFormedOnes := by
  intro base stride x pos
  rw [BusAccess.wellFormed, Bool.and_eq_true, Bool.and_eq_true, BusAccess.widthOk_iff, BusAccess.addressOk_iff]
  constructor
  · rintro ⟨i, h⟩
    obtain ⟨t, transaction, decoded⟩ := decodeAccess_eq_ok.1 h
    obtain ⟨width, address, direction, -⟩ := (transactionOf_eq_ok pos).1 transaction
    refine ⟨⟨width, _, address⟩, (BusAccess.directionOk_iff pos address).2 ?_⟩
    rw [← direction, opWord_fields]
    exact (exists_decode_iff t).1 ⟨i, decoded⟩
  · rintro ⟨⟨width, a, address⟩, direction⟩
    obtain ⟨i, decoded⟩ := (exists_decode_iff ⟨opWord x.write a, x.data⟩).2
      ((BusAccess.directionOk_iff pos address).1 direction)
    refine ⟨i, decodeAccess_eq_ok.2 ⟨_, (transactionOf_eq_ok pos).2 ⟨width, ?_, opWord_write _ a, rfl⟩, decoded⟩⟩
    rw [opWord_index, address]

end Sys2Proof

namespace Sys2Proof.Machine

/-! ### The turn of an awake host with an access next -/

theorem performAccess_of_reject {x : BusAccess} {r : Reject} (h : fetchAccess x = .error r) (s : State) :
    performAccess x s = .refused (.rejected r) := by
  simp [performAccess, h]

section
variable {s : State} {x : BusAccess} {rest : List HostAction}

/-- The awake host performs its next access, with that turn and that access used up (R41, R48). -/
theorem step_of_access (turn : nextAgent s = .host) (awake : s.asleep = false) (program : s.program = .access x :: rest) :
    step s = performAccess x { takeTurn s with program := rest } := by
  simp [step, turn, agentStep, hostStep, awake, program]

theorem step_of_decoded_access {i : Instr} (turn : nextAgent s = .host) (awake : s.asleep = false)
    (program : s.program = .access x :: rest) (decoded : fetchAccess x = .ok i) :
    step s = .next (opEffect i { takeTurn s with program := rest }) :=
  (step_of_access turn awake program).trans (performAccess_of_fetch decoded _)

end

/-- Settles O7: the access performs its operation's effect, which is what exec gives. -/
theorem stepPerformsTheDecodedAccess : Obligations.StepPerformsTheDecodedAccess := by
  intro s x rest i turn awake program decoded
  rw [step_of_decoded_access turn awake program decoded, exec_eq_opEffect]

/-- Settles O5: the decoder rejects the access, and the step is then refused under the same name. -/
theorem wrongWidthOrAddressIsRefused : Obligations.WrongWidthOrAddressIsRefused := by
  intro s x rest turn awake program
  rw [step_of_access turn awake program]
  exact ⟨fun width => performAccess_of_reject (decodeAccess_of_width width) _,
    fun width address => performAccess_of_reject (decodeAccess_of_address Config.one_le_regStride width address) _⟩

theorem decodeTableWord_eq_some {nbits w : Nat} {i : Instr} :
    decodeTableWord nbits w = some i ↔ decode (.ofNumber (w % 2 ^ nbits)) = .ok i := by
  unfold decodeTableWord
  cases decode (.ofNumber (w % 2 ^ nbits)) <;> simp

/-- Settles O8: the placed access decodes as its transaction, and its turn takes away what the placing put in front. -/
theorem stepRunsThePlacedTransaction : Obligations.StepRunsThePlacedTransaction := by
  intro s nbits w i h
  have decoded : decodeAccess Config.base Config.regStride (Transaction.ofNumber (w % 2 ^ nbits)).access = .ok i :=
    (decodeAccess_access _ _ _).trans (decodeTableWord_eq_some.1 h)
  exact stepPerformsTheDecodedAccess (s.withFetchWord nbits w) _ s.program i rfl rfl rfl decoded

/-! ### Lines loaded as a program and a schedule -/

/-- The host's actions and the turns to come stay out of what an operation does. -/
theorem opEffect_with_program_schedule (i : Instr) (s : State) (p : List HostAction) (a : List Agent) :
    opEffect i { s with program := p, schedule := a } = { opEffect i s with program := p, schedule := a } := by
  cases i with
  | ctrl d => simp only [opEffect, ctrlEffect]; split <;> rfl
  | _ => rfl

theorem timerTick_with_program_schedule (period : Nat) (s : State) (p : List HostAction) (a : List Agent) :
    timerTick period { s with program := p, schedule := a } =
      { timerTick period s with program := p, schedule := a } := by
  unfold timerTick tick
  split
  · split
    · rfl
    · simp [timeout_eq, setCnt, quiet]
  · rfl

theorem lineEffect_with_program_schedule (l : Line) (s : State) (p : List HostAction) (a : List Agent) :
    lineEffect { s with program := p, schedule := a } l = { lineEffect s l with program := p, schedule := a } := by
  cases l with
  | op i => exact opEffect_with_program_schedule i s p a
  | tick => exact timerTick_with_program_schedule _ s p a
  | reset => rfl

/-- No line touches the host's actions or the turns to come. -/
theorem lineEffect_frame (l : Line) (s : State) :
    (lineEffect s l).program = s.program ∧ (lineEffect s l).schedule = s.schedule := by
  cases l with
  | op i => simp [lineEffect, opEffect_frame]
  | tick => simp [lineEffect, timerTick_frame]
  | reset => simp [lineEffect]

/-- A tick puts no host to sleep: a timeout only wakes it (R137). -/
theorem timerTick_awake (period : Nat) {s : State} (awake : s.asleep = false) : (timerTick period s).asleep = false := by
  unfold timerTick tick
  split
  · split <;> simp [timeout_eq, awake]
  · exact awake

theorem lineEffect_awake (l : Line) {s : State} (awake : s.asleep = false) : (lineEffect s l).asleep = false := by
  cases l with
  | op i => simp [lineEffect, opEffect_frame, awake]
  | tick => exact timerTick_awake _ awake
  | reset => exact awake

/-- A line's effect and the loading of the lines after it commute. -/
theorem lineEffect_loadLines (l : Line) (ls : List Line) (s : State) :
    lineEffect (loadLines ls s) l = loadLines ls (lineEffect s l) := by
  obtain ⟨program, schedule⟩ := lineEffect_frame l s
  rw [loadLines, loadLines, program, schedule, lineEffect_with_program_schedule]

/-- With lines loaded, a step of the awake machine is the first line's effect and leaves the other lines loaded. -/
theorem step_loadLines_cons (l : Line) (ls : List Line) (s : State) (awake : s.asleep = false) :
    step (loadLines (l :: ls) s) = .next (loadLines ls (lineEffect s l)) := by
  rw [← lineEffect_loadLines]
  cases l with
  | op i =>
    have decoded : fetchAccess (encode i).access = .ok i := (decodeAccess_access _ _ _).trans (decode_encode i)
    exact step_of_decoded_access (rest := (loadLines ls s).program) rfl awake rfl decoded
  | tick => rfl
  | reset => rfl

/-- Settles O9: by induction over the lines, each line's turn being its effect. -/
theorem loadedLinesRunStepByStep : Obligations.LoadedLinesRunStepByStep := by
  intro ls s awake
  rw [runLines_eq_foldl]
  induction ls generalizing s with
  | nil => rfl
  | cons l ls ih =>
    rw [List.length_cons, run_succ_of_next (step_loadLines_cons l ls s awake), List.foldl_cons]
    exact ih _ (lineEffect_awake l awake)

/-! ### Repeating an operation (R45) -/

/-- f has no fixed point but 0 (R84): in a fixed point all bits are equal, and four equal taps feed back 0. -/
theorem shiftIn_ne_self {w : Word} (h : w ≠ 0#16) : shiftIn w ≠ w := by
  intro fixed
  have bits (i : Nat) : w.getLsbD i = if i = 0 then feedback w else decide (i < 16) && w.getLsbD (i - 1) := by
    rw [← shiftIn_getLsbD, fixed]
  have equal (i : Nat) (lt : i < 16) : w.getLsbD i = feedback w := by
    induction i with
    | zero => exact bits 0
    | succ i ih => rw [bits (i + 1), if_neg (Nat.succ_ne_zero i)]; simp [lt, ih (by omega)]
  have zero : feedback w = false := by
    rw [feedback, equal 15, equal 14, equal 12, equal 3] <;> simp
  exact h (BitVec.eq_of_getLsbD_eq fun i lt => by rw [equal i lt, zero, BitVec.getLsbD_zero])

theorem nextValue_ne_self (w : Word) : nextValue w ≠ w := by
  unfold nextValue reseed
  split
  · rename_i zero
    subst zero
    decide
  · exact shiftIn_ne_self ‹_›

/-- Settles O15: NEXT computes its value from STATE, and no STATE is its own next value. -/
theorem everyNextAdvances : Obligations.EveryNextAdvances :=
  fun s => ⟨opEffect .next s, exec_eq_opEffect .next s, nextValue_ne_self s.block.lfsr⟩

theorem wakeAfterAck_idem (d : Word) (wake : Bool) : wakeAfterAck d (wakeAfterAck d wake) = wakeAfterAck d wake := by
  unfold wakeAfterAck
  split <;> rfl

/-- A CTRL write after an equal one has nothing left to arm: the timer is Armed or D[0] = 0 (R107). -/
theorem ctrlEffect_idem (period : Nat) (d : Word) (s : State) :
    ctrlEffect period d (ctrlEffect period d s) = ctrlEffect period d s := by
  by_cases arms : (bitOperand d && !s.block.armed) = true
  · rw [show ctrlEffect period d s = armTimer period (quiet s) from if_pos arms]
    simp [ctrlEffect, armTimer, quiet]
  · rw [show ctrlEffect period d s = quiet s from if_neg arms]
    exact if_neg arms

theorem opEffect_idem {i : Instr} (ne : i ≠ .next) (s : State) : opEffect i (opEffect i s) = opEffect i s := by
  cases i with
  | next => exact absurd rfl ne
  | peek => rfl
  | stat => rfl
  | seed d => rfl
  | ack d => simp [opEffect, quiet, setWake, wakeAfterAck_idem]
  | ctrl d => exact ctrlEffect_idem _ d s

/-- Settles O23: the effect of each operation but NEXT is idempotent. -/
theorem allButNextAreIdempotent : Obligations.AllButNextAreIdempotent := by
  intro i s ne
  refine ⟨opEffect i s, exec_eq_opEffect i s, ?_⟩
  rw [exec_eq_opEffect, opEffect_idem ne]

/-! ### The order of turns -/

/-- The round number rises only when a free round begins. -/
theorem takeTurn_round (s : State) : (takeTurn s).round = if s.schedule = [] then s.round + 1 else s.round := by
  cases h : s.schedule with
  | nil => rw [(takeTurn_of_no_schedule s h).2]; simp
  | cons a rest => rw [(takeTurn_of_schedule s a rest h).2]; simp

/-- Settles O51: a step leaves the turns to come as takeTurn does. -/
theorem turnsFollowTheScheduleThenTheFreeRounds : Obligations.TurnsFollowTheScheduleThenTheFreeRounds := by
  intro s t h
  obtain ⟨schedule, round⟩ := step_turns h
  rw [schedule, round, nextAgent_cons_takeTurn, takeTurn_round]
  exact ⟨fun ne => by simp [ne], fun nil => by simp [nil]⟩

theorem firstRounds_succ (beforeHost beforeTimer : Nat → List Agent) (n : Nat) :
    firstRounds beforeHost beforeTimer (n + 1) =
      firstRounds beforeHost beforeTimer n ++ turnRound beforeHost beforeTimer n := by
  simp [firstRounds, List.range_succ]

/-- An agent with a turn in every round has at least `n` turns in `n` rounds. -/
theorem le_count_firstRounds {beforeHost beforeTimer : Nat → List Agent} {a : Agent}
    (mem : ∀ n, a ∈ turnRound beforeHost beforeTimer n) (n : Nat) : n ≤ (firstRounds beforeHost beforeTimer n).count a := by
  induction n with
  | zero => exact Nat.zero_le _
  | succ n ih =>
    rw [firstRounds_succ, List.count_append]
    exact Nat.add_le_add ih (List.count_pos_iff.2 (mem n))

/-- The turns of an order from number `a` up to but not including number `b`. -/
def turnsBetween (order : Nat → Agent) (a b : Nat) : List Agent := (List.range' a (b - a)).map order

theorem turnsBetween_zero (order : Nat → Agent) (b : Nat) : turnsBetween order 0 b = (List.range b).map order := by
  rw [turnsBetween, Nat.sub_zero, List.range_eq_range']

theorem turnsBetween_append (order : Nat → Agent) {a b c : Nat} (ab : a ≤ b) (bc : b ≤ c) :
    turnsBetween order a b ++ turnsBetween order b c = turnsBetween order a c := by
  have glue := List.range'_append_1 (s := a) (m := b - a) (n := c - b)
  rw [show a + (b - a) = b by omega, show b - a + (c - b) = c - a by omega] at glue
  simp only [turnsBetween, ← List.map_append, glue]

theorem turnsBetween_succ (order : Nat → Agent) (a : Nat) : turnsBetween order a (a + 1) = [order a] := by
  simp [turnsBetween]

/-- Where round `n` begins in an order, for given ways to find a turn of the host and a turn of the timer from any place on:
each round ends with the timer's turn found after the host's turn found. -/
def roundStart (hostFrom timerFrom : Nat → Nat) : Nat → Nat
  | 0     => 0
  | n + 1 => timerFrom (hostFrom (roundStart hostFrom timerFrom n) + 1) + 1

/-- The turns of round `n` before the host's turn found. -/
def roundBeforeHost (order : Nat → Agent) (hostFrom timerFrom : Nat → Nat) (n : Nat) : List Agent :=
  turnsBetween order (roundStart hostFrom timerFrom n) (hostFrom (roundStart hostFrom timerFrom n))

/-- The turns of round `n` between the host's and the timer's turn found. -/
def roundBeforeTimer (order : Nat → Agent) (hostFrom timerFrom : Nat → Nat) (n : Nat) : List Agent :=
  turnsBetween order (hostFrom (roundStart hostFrom timerFrom n) + 1)
    (timerFrom (hostFrom (roundStart hostFrom timerFrom n) + 1))

section
variable {order : Nat → Agent} {hostFrom timerFrom : Nat → Nat}
  (hostLater : ∀ n, n ≤ hostFrom n ∧ order (hostFrom n) = .host)
  (timerLater : ∀ n, n ≤ timerFrom n ∧ order (timerFrom n) = .timer)
include hostLater timerLater

theorem roundStart_le_succ (n : Nat) : roundStart hostFrom timerFrom n ≤ roundStart hostFrom timerFrom (n + 1) := by
  obtain ⟨toHost, -⟩ := hostLater (roundStart hostFrom timerFrom n)
  obtain ⟨toTimer, -⟩ := timerLater (hostFrom (roundStart hostFrom timerFrom n) + 1)
  simp only [roundStart]
  omega

/-- A stretch of turns up to and including a host's and then a timer's turn is a round. -/
theorem turnRound_eq_turnsBetween (n : Nat) :
    turnRound (roundBeforeHost order hostFrom timerFrom) (roundBeforeTimer order hostFrom timerFrom) n =
      turnsBetween order (roundStart hostFrom timerFrom n) (roundStart hostFrom timerFrom (n + 1)) := by
  obtain ⟨toHost, host⟩ := hostLater (roundStart hostFrom timerFrom n)
  obtain ⟨toTimer, timer⟩ := timerLater (hostFrom (roundStart hostFrom timerFrom n) + 1)
  simp only [turnRound, roundBeforeHost, roundBeforeTimer, roundStart]
  generalize roundStart hostFrom timerFrom n = a at *
  generalize hostFrom a = b at *
  generalize timerFrom (b + 1) = c at *
  calc turnsBetween order a b ++ .host :: (turnsBetween order (b + 1) c ++ [.timer])
      = turnsBetween order a b ++ (turnsBetween order b (b + 1) ++
          (turnsBetween order (b + 1) c ++ turnsBetween order c (c + 1))) := by
        simp [turnsBetween_succ, host, timer]
    _ = turnsBetween order a (c + 1) := by
        rw [turnsBetween_append order toTimer (by omega), turnsBetween_append order (by omega) (by omega),
          turnsBetween_append order toHost (by omega)]

/-- The first `n` rounds are the order up to where round `n` begins. -/
theorem firstRounds_eq_turnsBetween (n : Nat) :
    firstRounds (roundBeforeHost order hostFrom timerFrom) (roundBeforeTimer order hostFrom timerFrom) n =
      turnsBetween order 0 (roundStart hostFrom timerFrom n) := by
  induction n with
  | zero => rfl
  | succ n ih =>
    rw [firstRounds_succ, ih, turnRound_eq_turnsBetween hostLater timerLater,
      turnsBetween_append order (Nat.zero_le _) (roundStart_le_succ hostLater timerLater n)]

end

/-- Settles O53: each round has a turn of both agents; and a fair order is cut, round by round, at a host's turn still to come
and a timer's turn after it. -/
theorem roundsAreExactlyTheFairOrders : Obligations.RoundsAreExactlyTheFairOrders := by
  refine ⟨fun beforeHost beforeTimer n => ⟨le_count_firstRounds (by simp [turnRound]) n,
    le_count_firstRounds (by simp [turnRound]) n⟩, fun order hostAgain timerAgain => ?_⟩
  choose hostFrom hostLater using hostAgain
  choose timerFrom timerLater using timerAgain
  refine ⟨roundBeforeHost order hostFrom timerFrom, roundBeforeTimer order hostFrom timerFrom, fun n => ?_⟩
  rw [firstRounds_eq_turnsBetween hostLater timerLater, turnsBetween_zero, List.length_map, List.length_range]

end Sys2Proof.Machine
end

section
/-! PROOFS about the encoding (30_encoding.md): the opcode map (R64), the round trip through a transaction's bits (R60, R63),
the reserved words (R65, R66), and the data bits that ACK and CTRL ignore (R62). -/

namespace Sys2Proof

/-! ### A transaction and its number -/

/-- The op word is the number's three low bits and D is the rest, so the number gives both back (log 1). -/
theorem Transaction.ofNumber_number (t : Transaction) : Transaction.ofNumber t.number = t := by
  obtain ⟨op, data⟩ := t
  have op_lt : op.toNat < 8 := op.isLt
  have low : (op.toNat + 8 * data.toNat) % 8 = op.toNat := by omega
  have high : (op.toNat + 8 * data.toNat) / 8 = data.toNat := by omega
  have op_eq : BitVec.ofNat 3 (op.toNat + 8 * data.toNat) = op := BitVec.eq_of_toNat_eq low
  simp [ofNumber, number, op_eq, high]

/-- A transaction is 19 bits long: three of op word and sixteen of D (R60, R61). -/
theorem Transaction.number_lt (t : Transaction) : t.number < 2 ^ 19 := by
  have op_lt : t.op.toNat < 8 := t.op.isLt
  have data_lt : t.data.toNat < 65536 := t.data.isLt
  unfold number
  omega

/-! ### Accesses that reach a reserved word -/

theorem decode_read_ctrl (d : Word) : decode { op := opWord false 3#2, data := d } = .error .reservedRead3 := by
  simp [decode, opWord]

theorem decode_write_rand (d : Word) : decode { op := opWord true 0#2, data := d } = .error .reservedWrite0 := by
  simp [decode, opWord]

/-- A 16-bit access at a register's address is decoded by its direction, that register's index and its data (R41, R60). -/
theorem decodeAccess_at_register {base stride : Nat} (pos : 1 ≤ stride) {x : BusAccess} {a : RegIndex}
    (width : x.width = 2) (address : x.addr.value base stride = regAddress base stride a) :
    decodeAccess base stride x = decode { op := opWord x.write a, data := x.data } := by
  have index : x.addr.regIndex base stride = some a := (HostAddr.regIndex_eq_some pos x.addr a).2 address
  simp [decodeAccess, transactionOf, width, index]

end Sys2Proof

namespace Sys2Proof.Machine

/-- An awake host whose next access the decoder rejects is refused, for the rest of the run (R66). -/
theorem run_of_rejected_access {s : State} {x : BusAccess} {rest : List HostAction} {r : Reject}
    (turn : nextAgent s = .host) (awake : s.asleep = false) (program : s.program = .access x :: rest)
    (rejected : fetchAccess x = .error r) (k : Nat) :
    Host.Core.run Sys2Proof.core (k + 1) s = .refused (.rejected r) :=
  run_succ_of_refused ((step_of_access turn awake program).trans (performAccess_of_reject rejected _)) k

/-! ### The data bit that ACK and CTRL read -/

/-- ACK reads D[0] only (R104). -/
theorem wakeAfterAck_congr {d e : Word} (bit : bitOperand d = bitOperand e) : wakeAfterAck d = wakeAfterAck e := by
  funext wake
  rw [wakeAfterAck, wakeAfterAck, bit]

/-- CTRL reads D[0] only (R106, R107). -/
theorem ctrlEffect_congr (period : Nat) {d e : Word} (bit : bitOperand d = bitOperand e) :
    ctrlEffect period d = ctrlEffect period e := by
  funext s
  rw [ctrlEffect, ctrlEffect, bit]

/-! ### The statements -/

/-- Settles O3: the number is below 2 ^ 19, so taking its low bits loses nothing, and it gives back the transaction. -/
theorem decodeReadsBackEveryEncoding : Obligations.DecodeReadsBackEveryEncoding := by
  intro i
  refine ⟨decode_encode i, fun nbits enough => decodeTableWord_eq_some.2 ?_⟩
  have fits : (encode i).number < 2 ^ nbits :=
    (encode i).number_lt.trans_le (Nat.pow_le_pow_right Nat.two_pos enough)
  rw [Nat.mod_eq_of_lt fits, Transaction.ofNumber_number, decode_encode]

/-- Settles O6: the access decodes as the op word of its direction and register, which is a reserved one. -/
theorem reservedWordsAreRefused : Obligations.ReservedWordsAreRefused := by
  intro s x rest turn awake program width
  refine ⟨fun direction address => run_of_rejected_access turn awake program ?_,
    fun direction address => run_of_rejected_access turn awake program ?_⟩
  · rw [fetchAccess, decodeAccess_at_register Config.one_le_regStride width address, direction, decode_read_ctrl]
  · rw [fetchAccess, decodeAccess_at_register Config.one_le_regStride width address, direction, decode_write_rand]

/-- Settles O1: the bits of each op word select one arm of the decoder, whatever the data. -/
theorem opcodeMapDecodesEveryWord : Obligations.OpcodeMapDecodesEveryWord := by
  intro d
  refine ⟨?_, ?_, ?_, decode_encode (.seed d), decode_encode (.ack d), decode_encode (.ctrl d),
    decode_read_ctrl d, decode_write_rand d⟩
  all_goals simp [decode]

/-- Settles O24: ACK's and CTRL's effects depend on the data through D[0] alone. -/
theorem reservedDataBitsAreIgnored : Obligations.ReservedDataBitsAreIgnored := by
  intro d e s bit
  constructor
  · rw [exec_eq_opEffect, exec_eq_opEffect, opEffect, opEffect, wakeAfterAck_congr bit]
  · rw [exec_eq_opEffect, exec_eq_opEffect, opEffect, opEffect, ctrlEffect_congr _ bit]

end Sys2Proof.Machine
end

section
/-! PROOFS about LFSR16 (40_lfsr.md): the recurrence f as a permutation (R84), its one cycle of 65535 values (R85), what each
line of a program does to STATE (R83), and the effects of NEXT, PEEK and SEED (R81, R82, R86, R87). -/

namespace Sys2Proof.Machine

open Function

/-! ### f and NEXT's value -/

theorem shiftIn_injective : Injective shiftIn := by
  intro a b eq
  have zero : shiftIn (a ^^^ b) = 0#16 := by rw [shiftIn_xor, eq, BitVec.xor_self]
  exact BitVec.xor_eq_zero_iff.1 (not_imp_not.1 shiftIn_ne_zero zero)

theorem shiftIn_surjective : Surjective shiftIn := Finite.surjective_of_injective shiftIn_injective

/-- Bit 15, which the shift drops, is a tap, so the feedback gives it back (R84). -/
theorem getLsbD_of_shiftIn (w : Word) :
    (∀ i, i < 15 → w.getLsbD i = (shiftIn w).getLsbD (i + 1)) ∧
    w.getLsbD 15 = ((shiftIn w).getLsbD 0 ^^ w.getLsbD 14 ^^ w.getLsbD 12 ^^ w.getLsbD 3) := by
  constructor
  · intro i lt
    rw [shiftIn_getLsbD, if_neg (Nat.succ_ne_zero i)]
    simp [show i + 1 < 16 by omega]
  · rw [shiftIn_getLsbD, if_pos rfl, feedback]
    have cancel : ∀ a b c d : Bool, a = ((a ^^ b ^^ c ^^ d) ^^ b ^^ c ^^ d) := by decide
    exact cancel _ _ _ _

theorem nextValue_of_ne_zero {w : Word} (ne : w ≠ 0#16) : nextValue w = shiftIn w := by
  rw [nextValue, reseed, if_neg ne]

theorem nextValue_zero : nextValue 0#16 = 2#16 := by decide

theorem nextValue_iterate_ne_zero {w : Word} (ne : w ≠ 0#16) (n : Nat) : nextValue^[n] w ≠ 0#16 := by
  cases n with
  | zero => exact ne
  | succ n => rw [iterate_succ_apply']; exact nextValue_ne_zero _

theorem nextValue_iterate_eq_shiftIn_iterate {w : Word} (ne : w ≠ 0#16) (n : Nat) : nextValue^[n] w = shiftIn^[n] w := by
  induction n with
  | zero => rfl
  | succ n ih =>
    rw [iterate_succ_apply', iterate_succ_apply', nextValue_of_ne_zero (nextValue_iterate_ne_zero ne n), ih]

/-! ### The period of the value 1 -/

/-- The map with columns `cs` applied `n` times, for an `n` of at most `digits` binary digits: the columns are squared once
for each digit. -/
def jump : Nat → List Word → Nat → Word → Word
  | 0, _, _, w          => w
  | digits + 1, cs, n, w => jump digits (squareCols cs) (n / 2) (if n % 2 = 1 then applyCols cs w else w)

theorem jump_powerCols {digits n : Nat} (fits : n < 2 ^ digits) (k : Nat) (w : Word) :
    jump digits (powerCols k) n w = shiftIn^[2 ^ k * n] w := by
  induction digits generalizing n k w with
  | zero =>
    obtain rfl : n = 0 := by simpa using fits
    rfl
  | succ digits ih =>
    rw [jump, ← powerCols, ih (by omega), Nat.pow_succ, Nat.mul_assoc]
    split <;> rename_i digit
    · rw [powerCols_apply, ← iterate_add_apply, ← Nat.mul_succ, show (2 * (n / 2)).succ = n by omega]
    · rw [show 2 * (n / 2) = n by omega]

/-- Up to 65535 applications of f, computed by sixteen squarings. -/
theorem jump_eq_iterate {n : Nat} (fits : n < 2 ^ 16) (w : Word) : jump 16 (powerCols 0) n w = shiftIn^[n] w := by
  rw [jump_powerCols fits, Nat.pow_zero, Nat.one_mul]

/-- A period that no prime can be divided out of is the least one. -/
theorem minimalPeriod_eq_of_div_prime {α : Type} {f : α → α} {x : α} {n : Nat} (period : IsPeriodicPt f n x)
    (least : ∀ p, p.Prime → p ∣ n → ¬ IsPeriodicPt f (n / p) x) : minimalPeriod f x = n := by
  obtain ⟨a, rfl⟩ := period.minimalPeriod_dvd
  suffices a = 1 by rw [this, Nat.mul_one]
  by_contra ne
  have dvd : a.minFac ∣ minimalPeriod f x * a := a.minFac_dvd.mul_left _
  refine least a.minFac (Nat.minFac_prime ne) dvd (isPeriodicPt_iff_minimalPeriod_dvd.2 ?_)
  rw [Nat.mul_div_assoc _ a.minFac_dvd]
  exact Nat.dvd_mul_right _ _

theorem prime_dvd_65535 {p : Nat} (prime : p.Prime) (dvd : p ∣ 65535) : p = 3 ∨ p = 5 ∨ p = 17 ∨ p = 257 := by
  rw [show 65535 = 3 * 5 * 17 * 257 by rfl, prime.dvd_mul, prime.dvd_mul, prime.dvd_mul] at dvd
  rwa [Nat.prime_dvd_prime_iff_eq prime (by norm_num), Nat.prime_dvd_prime_iff_eq prime (by norm_num),
    Nat.prime_dvd_prime_iff_eq prime (by norm_num), Nat.prime_dvd_prime_iff_eq prime (by norm_num), or_assoc, or_assoc] at dvd

/-- 65535 applications of f lead from 1 back to 1. -/
theorem jump_period : jump 16 (powerCols 0) 65535 1#16 = 1#16 := by decide_cbv

/-- A period with one prime factor taken out does not lead from 1 back to 1. -/
theorem jump_period_div_prime : ∀ p ∈ [3, 5, 17, 257], jump 16 (powerCols 0) (65535 / p) 1#16 ≠ 1#16 := by decide_cbv

theorem minimalPeriod_shiftIn_one : minimalPeriod shiftIn 1#16 = 65535 := by
  refine minimalPeriod_eq_of_div_prime ((jump_eq_iterate (by omega) _).symm.trans jump_period) ?_
  intro p prime dvd period
  have listed : p ∈ [3, 5, 17, 257] := by simpa using prime_dvd_65535 prime dvd
  have fits : 65535 / p < 2 ^ 16 := Nat.lt_of_le_of_lt (Nat.div_le_self _ p) (by omega)
  exact jump_period_div_prime p listed ((jump_eq_iterate fits _).trans period)

/-! ### The one cycle of the non-zero values -/

theorem minimalPeriod_nextValue_one : minimalPeriod nextValue 1#16 = 65535 := by
  rw [← minimalPeriod_shiftIn_one, minimalPeriod_eq_minimalPeriod_iff]
  intro n
  rw [IsPeriodicPt, IsPeriodicPt, IsFixedPt, IsFixedPt, nextValue_iterate_eq_shiftIn_iterate (by decide)]

theorem card_univ_erase_zero : (Finset.univ.erase (0#16 : Word)).card = 65535 := by
  rw [Finset.card_erase_of_mem (Finset.mem_univ _), Finset.card_univ, ← FinEnum.card_eq_fintypeCard, FinEnum.card_bitVec]
  rfl

/-- A cycle of 65535 non-zero values has room for no other: it meets every non-zero value. -/
theorem exists_nextValue_iterate_eq {w v : Word} (period : minimalPeriod nextValue w = 65535) (hw : w ≠ 0#16)
    (hv : v ≠ 0#16) : ∃ n, n < 65535 ∧ nextValue^[n] w = v := by
  have meets := Finset.surjOn_of_injOn_of_card_le (s := Finset.range 65535) (t := Finset.univ.erase (0#16 : Word))
    (fun n => nextValue^[n] w) (fun n _ => by simpa using nextValue_iterate_ne_zero hw n)
    (by simpa [period] using iterate_injOn_Iio_minimalPeriod (f := nextValue) (x := w))
    (by rw [card_univ_erase_zero, Finset.card_range])
  simpa using meets (by simpa using hv)

/-- Every non-zero value is on the cycle of 1, so it has the same period (R85). -/
theorem minimalPeriod_nextValue {w : Word} (ne : w ≠ 0#16) : minimalPeriod nextValue w = 65535 := by
  obtain ⟨n, -, rfl⟩ := exists_nextValue_iterate_eq minimalPeriod_nextValue_one (by decide) ne
  rw [minimalPeriod_apply_iterate ?_ n, minimalPeriod_nextValue_one]
  exact minimalPeriod_pos_iff_mem_periodicPts.1 (by rw [minimalPeriod_nextValue_one]; omega)

theorem nextValue_iterate_eq_self_iff {w : Word} (ne : w ≠ 0#16) (n : Nat) : nextValue^[n] w = w ↔ 65535 ∣ n := by
  rw [← minimalPeriod_nextValue ne]
  exact isPeriodicPt_iff_minimalPeriod_dvd

/-- `n` NEXT lines advance STATE `n` times. -/
theorem foldl_replicate_next_lfsr (n : Nat) (s : State) :
    ((List.replicate n (.op .next)).foldl lineEffect s).block.lfsr = nextValue^[n] s.block.lfsr := by
  cases n with
  | zero => rfl
  | succ n => rw [foldl_replicate_next_block]; rfl

/-- Settles O14: NEXT's value runs through one cycle, of all 65535 non-zero values, and 0 enters it at 2. -/
theorem nextHasPeriod65535 : Obligations.NextHasPeriod65535 := by
  refine ⟨fun s ne => ⟨fun n => ?_, fun v hv => ?_⟩, fun s zero n => ?_⟩
  · refine ⟨_, runLines_eq_foldl _ s, ?_⟩
    rw [foldl_replicate_next_lfsr, nextValue_iterate_eq_self_iff ne]
  · obtain ⟨n, lt, meets⟩ := exists_nextValue_iterate_eq (minimalPeriod_nextValue ne) ne hv
    exact ⟨n, _, lt, runLines_eq_foldl _ s, (foldl_replicate_next_lfsr n s).trans meets⟩
  · refine ⟨_, runLines_eq_foldl _ s, ?_⟩
    rw [foldl_replicate_next_lfsr, zero, iterate_succ_apply, nextValue_zero, nextValue_iterate_eq_self_iff (by decide)]

/-- Settles O49: the draws after the first are one to four places on in the cycle of the first. -/
theorem noTieWithinAFlickerIteration : Obligations.NoTieWithinAFlickerIteration := by
  intro s j v reads k tie
  rw [nextReads_replicate_next, List.ofFn_succ, List.cons.injEq, List.ofFn_inj] at reads
  obtain ⟨rfl, rfl⟩ := reads
  have returns : nextValue^[k.val + 1] (nextValue s.block.lfsr) = nextValue s.block.lfsr := tie
  rw [nextValue_iterate_eq_self_iff (nextValue_ne_zero _)] at returns
  have := Nat.le_of_dvd (Nat.succ_pos _) returns
  omega

/-! ### What a line does to STATE -/

/-- STATE after a line, from STATE before it (R23). -/
def lfsrAfter (w : Word) : Line → Word
  | .op .next     => nextValue w
  | .op (.seed d) => d
  | .op .peek     => w
  | .op .stat     => w
  | .op (.ack _)  => w
  | .op (.ctrl _) => w
  | .tick         => w
  | .reset        => Config.resetSeed

theorem opEffect_ctrl_lfsr (d : Word) (s : State) : (opEffect (.ctrl d) s).block.lfsr = s.block.lfsr := by
  simp only [opEffect, ctrlEffect]
  split <;> rfl

theorem lineEffect_lfsr (l : Line) (s : State) : (lineEffect s l).block.lfsr = lfsrAfter s.block.lfsr l := by
  cases l with
  | op i =>
    cases i with
    | ctrl d => exact opEffect_ctrl_lfsr d s
    | _ => rfl
  | tick =>
    obtain ⟨lfsr, -⟩ := timerTick_frame Config.periodTicks s
    exact lfsr
  | reset => rfl

theorem lfsrAfter_of_not_writesLfsr {l : Line} (unwritten : l.writesLfsr = false) (w : Word) : lfsrAfter w l = w := by
  cases l with
  | op i =>
    cases i with
    | next | seed => cases unwritten
    | _ => rfl
  | tick => rfl
  | reset => cases unwritten

/-- The values NEXT lines return, from STATE before each line. -/
theorem nextReads_cons_eq_lfsr (l : Line) (rest : List Line) (s : State) :
    nextReads (l :: rest) s =
      (if l = .op .next then [nextValue s.block.lfsr] else []) ++ nextReads rest (lineEffect s l) := by
  rw [nextReads_cons]
  split <;> rename_i h
  · rw [h]; rfl
  · rfl

/-- What NEXT lines return depends on STATE at the start and on the lines that write STATE (R83). -/
theorem nextReads_eq_filter (ls : List Line) {s t : State} (lfsr : s.block.lfsr = t.block.lfsr) :
    nextReads ls s = nextReads (ls.filter Line.writesLfsr) t := by
  induction ls generalizing s t with
  | nil => rfl
  | cons l rest ih =>
    cases writes : l.writesLfsr with
    | true =>
      have after : (lineEffect s l).block.lfsr = (lineEffect t l).block.lfsr := by
        rw [lineEffect_lfsr, lineEffect_lfsr, lfsr]
      rw [List.filter_cons_of_pos writes, nextReads_cons_eq_lfsr, nextReads_cons_eq_lfsr, lfsr, ih after]
    | false =>
      have other : l ≠ .op .next := by rintro rfl; cases writes
      have after : (lineEffect s l).block.lfsr = t.block.lfsr := by
        rw [lineEffect_lfsr, lfsrAfter_of_not_writesLfsr writes, lfsr]
      rw [List.filter_cons_of_neg (by simp [writes]), nextReads_cons_eq_lfsr, if_neg other, List.nil_append, ih after]

/-- Settles O16: both programs return what their lines that write STATE return. -/
theorem nextValuesDependOnlyOnTheGenerator : Obligations.NextValuesDependOnlyOnTheGenerator := by
  intro l m s t same lfsr
  rw [nextReads_eq_filter l lfsr, same, ← nextReads_eq_filter m rfl]

/-! ### The operations -/

/-- Settles O10: no operation's effect touches the host's side or emits wake_irq. -/
theorem everyOperationCompletesQuietly : Obligations.EveryOperationCompletesQuietly :=
  fun i s => ⟨opEffect i s, exec_eq_opEffect i s, opEffect_frame i s⟩

/-- Settles O11: NEXT stores and returns f of the reseeded STATE, whose bits are those of the shift with the feedback. -/
theorem nextShiftsInTheFeedback : Obligations.NextShiftsInTheFeedback := by
  refine ⟨rfl, fun s => ⟨nextValue s.block.lfsr, reseed s.block.lfsr, exec_eq_opEffect .next s, rfl, ?_, fun i lt => ?_⟩⟩
  · exact shiftIn_getLsbD _ 0
  · obtain ⟨low, -⟩ := getLsbD_of_shiftIn (reseed s.block.lfsr)
    exact (low i lt).symm

/-- Settles O12: 0 is reseeded to 1, and f(1) = 2. -/
theorem zeroStateIsReseededInOneStep : Obligations.ZeroStateIsReseededInOneStep := by
  intro s start
  have value : nextValue s.block.lfsr = 2#16 := by
    obtain zero | one := start
    · rw [zero, nextValue_zero]
    · rw [one]; decide
  rw [exec_eq_opEffect, opEffect, value]
  rfl

/-- Settles O13: linearity and f(w) ≠ 0 for w ≠ 0 make f injective, and on a finite set onto. -/
theorem recurrencePermutesTheNonZeroValues : Obligations.RecurrencePermutesTheNonZeroValues := by
  refine ⟨@shiftIn_injective, shiftIn_zero, fun v hv => ?_, getLsbD_of_shiftIn, fun s => ?_⟩
  · obtain ⟨w, rfl⟩ := shiftIn_surjective v
    exact ⟨w, fun zero => hv (by rw [zero, shiftIn_zero]), rfl⟩
  · exact ⟨opEffect .next s, exec_eq_opEffect .next s, nextValue_ne_zero _, rfl, nextValue_of_ne_zero⟩

/-- Settles O17: PEEK's effect is to respond with STATE. -/
theorem peekReturnsTheState : Obligations.PeekReturnsTheState := ⟨rfl, exec_eq_opEffect .peek⟩

/-- Settles O18: after SEED, STATE is D, which PEEK returns and from which NEXT computes its value. -/
theorem seedStoresVerbatim : Obligations.SeedStoresVerbatim := by
  intro d s
  have value : nextValue d = if d = 0#16 then 2#16 else shiftIn d := by
    split <;> rename_i zero
    · rw [zero, nextValue_zero]
    · exact nextValue_of_ne_zero zero
  refine ⟨rfl, exec_eq_opEffect (.seed d) s, ⟨_, runLines_eq_foldl _ s, rfl⟩, ?_⟩
  rw [← value]
  rfl

end Sys2Proof.Machine
end

section
/-! PROOFS about PWT (41_timer.md): the effects of ACK and CTRL by case of D[0] and ARMED (R104, R106, R107), STATUS across a
tick (R102, R103), and the countdown of several ticks against one ACK (R105). -/

namespace Sys2Proof.Machine

/-! ### ACK and CTRL by case -/

/-- ACK with D[0] = 1 clears WAKE (R104). -/
theorem opEffect_ack_of_set {d : Word} (bit : d.getLsbD 0 = true) (s : State) :
    opEffect (.ack d) s = quiet (setWake false s) := by
  rw [opEffect, wakeAfterAck, bitOperand, if_pos bit]

/-- ACK with D[0] = 0 changes nothing (R104). -/
theorem opEffect_ack_of_unset {d : Word} (bit : d.getLsbD 0 = false) (s : State) : opEffect (.ack d) s = quiet s := by
  rw [opEffect, wakeAfterAck, bitOperand, if_neg (ne_true_of_eq_false bit)]
  rfl

/-- CTRL with D[0] = 1 in Idle arms (R106). -/
theorem opEffect_ctrl_of_idle {d : Word} {s : State} (bit : d.getLsbD 0 = true) (idle : s.block.armed = false) :
    opEffect (.ctrl d) s = armTimer Config.periodTicks (quiet s) :=
  if_pos (by simp [bitOperand, bit, idle])

/-- Every other CTRL write changes nothing (R107). -/
theorem opEffect_ctrl_of_unset_or_armed {d : Word} {s : State} (h : d.getLsbD 0 = false ∨ s.block.armed = true) :
    opEffect (.ctrl d) s = quiet s := by
  refine if_neg ?_
  obtain bit | armed := h
  · rw [bitOperand, bit]; simp
  · simp [armed]

/-! ### STATUS and ticks -/

@[simp] theorem statusWord_getLsbD_zero (b : Block) : (statusWord b).getLsbD 0 = b.wake := statusWord_getLsbD b 0

/-- WAKE stands in bit 0 of STATUS alone. -/
theorem statusWord_with_wake_getLsbD (b : Block) (wake : Bool) {i : Nat} (pos : 1 ≤ i) :
    (statusWord { b with wake := wake }).getLsbD i = (statusWord b).getLsbD i := by
  rw [statusWord_getLsbD, statusWord_getLsbD, if_neg (Nat.ne_of_gt pos), if_neg (Nat.ne_of_gt pos)]

/-- A tick leaves STATUS alone, or it is a timeout and sets WAKE in it (R103). -/
theorem BlockChange.tick_statusWord {b c : Block} (change : BlockChange b .tick c) :
    statusWord c = statusWord b ∨
    b.armed = true ∧ b.cnt ≤ 1 ∧ statusWord c = statusWord { b with wake := true } := by
  cases change with
  | countDown armed more => exact .inl rfl
  | timeout armed last => exact .inr ⟨armed, last, rfl⟩
  | idleTick idle => exact .inl rfl

/-- A tick with CNT > 1 counts down and does nothing else to the block (R123). -/
theorem timerTick_block_of_lt (period : Nat) {s : State} (armed : s.block.armed = true) (more : 1 < s.block.cnt) :
    (timerTick period s).block = { s.block with cnt := s.block.cnt - 1 } := by
  simp [timerTick, armed, tick_of_lt _ _ more]

/-- Ticks that do not reach the end of the countdown only count down (R123). -/
theorem foldl_replicate_tick_block {n : Nat} {s : State} (armed : s.block.armed = true) (more : n < s.block.cnt) :
    ((List.replicate n .tick).foldl lineEffect s).block = { s.block with cnt := s.block.cnt - n } := by
  induction n with
  | zero => rfl
  | succ n ih =>
    have before := ih (Nat.lt_of_succ_lt more)
    rw [List.replicate_succ', List.foldl_append]
    refine (timerTick_block_of_lt _ (by rw [before, armed]) (by simp only [before]; omega)).trans ?_
    rw [before, Nat.sub_sub]

/-- The tick that reaches the end of the countdown leaves WAKE = 1 (R123, R124). -/
theorem foldl_replicate_cnt_tick_wake {s : State} (armed : s.block.armed = true) (pos : 1 ≤ s.block.cnt) :
    ((List.replicate s.block.cnt .tick).foldl lineEffect s).block.wake = true := by
  obtain ⟨n, cnt⟩ := Nat.exists_eq_add_of_le' pos
  have before := foldl_replicate_tick_block (n := n) armed (by omega)
  rw [cnt, List.replicate_succ', List.foldl_append]
  refine (timerTick_wake _ _ (by rw [before, armed])).trans ?_
  rw [before]
  simp [cnt]

/-- Whatever lines come before it, an ACK with D[0] = 1 leaves WAKE = 0 (R104). -/
theorem runLines_append_ack {d : Word} (bit : d.getLsbD 0 = true) (ls : List Line) (s : State) :
    ∃ t, runLines (ls ++ [.op (.ack d)]) s = .next t ∧ t.block.wake = false := by
  refine ⟨_, runLines_eq_foldl _ s, ?_⟩
  simp [lineEffect, opEffect_ack_of_set bit]

/-! ### The statements -/

/-- Settles O25: STATUS after the tick is STATUS before it, or with WAKE set by a timeout. -/
theorem statChangesOnlyByATimeout : Obligations.StatChangesOnlyByATimeout := by
  intro s
  let a := opEffect .stat s
  let c := timerTick Config.periodTicks a
  refine ⟨a, opEffect .stat a, c, opEffect .stat c, statusWord s.block, statusWord c.block, exec_eq_opEffect _ s, rfl,
    exec_eq_opEffect _ a, rfl, rfl, exec_eq_opEffect _ c, rfl, ?_⟩
  obtain same | ⟨armed, last, raised⟩ := (timerTick_changes a).tick_statusWord
  · rw [show statusWord c.block = statusWord s.block from same]
    exact ⟨fun _ _ => rfl, id, fun changed => absurd rfl changed⟩
  · rw [show statusWord c.block = statusWord { s.block with wake := true } from raised]
    exact ⟨fun _ => statusWord_with_wake_getLsbD _ _, fun _ => statusWord_getLsbD_zero _, fun _ => ⟨armed, last⟩⟩

/-- Settles O33: an ACK clears WAKE whatever came before it, and the countdown that it leaves alone ends in a timeout. -/
theorem oneAckClearsAnyNumberOfTimeouts : Obligations.OneAckClearsAnyNumberOfTimeouts := by
  intro s n d armed pos bit
  refine ⟨runLines_append_ack bit _ s, ⟨_, runLines_eq_foldl _ s, ?_⟩, runLines_append_ack bit _ s⟩
  obtain ⟨armed', -, -, cnt⟩ := opEffect_armed (.ack d) s armed
  rw [List.foldl_cons, lineEffect, ← cnt]
  exact foldl_replicate_cnt_tick_wake armed' (by rwa [cnt])

/-- Settles O19: STAT's effect is to respond with STATUS, whose bits statusWord_getLsbD gives. -/
theorem statReturnsTheStatus : Obligations.StatReturnsTheStatus := by
  refine ⟨rfl, fun s => ⟨statusWord s.block, exec_eq_opEffect .stat s, ?_⟩⟩
  refine ⟨statusWord_getLsbD _ 0, statusWord_getLsbD _ 1, statusWord_getLsbD _ 2, statusWord_getLsbD _ 3, fun i high => ?_⟩
  rw [statusWord_getLsbD, if_neg (by omega), if_neg (by omega), if_neg (by omega), if_neg (by omega)]

/-- Settles O20: the two cases of D[0]. -/
theorem ackClearsWake : Obligations.AckClearsWake := by
  intro d s
  refine ⟨rfl, fun bit => ?_, fun bit => ?_⟩
  · rw [exec_eq_opEffect, opEffect_ack_of_set bit]; rfl
  · rw [exec_eq_opEffect, opEffect_ack_of_unset bit]; rfl

/-- Settles O21: in Idle the write's effect is armTimer. -/
theorem ctrlArmsFromIdle : Obligations.CtrlArmsFromIdle := by
  intro d s bit idle
  refine ⟨rfl, ?_⟩
  rw [exec_eq_opEffect, opEffect_ctrl_of_idle bit idle]
  rfl

/-- Settles O22: a write that does not arm only completes quietly. -/
theorem otherCtrlWritesHaveNoEffect : Obligations.OtherCtrlWritesHaveNoEffect := by
  intro d s h
  rw [exec_eq_opEffect, opEffect_ctrl_of_unset_or_armed h]
  rfl

end Sys2Proof.Machine
end

section
/-! PROOFS about the timer and the host's sleep (60_exceptions.md): a tick by case (R122 to R124), the period of the timeouts
(R125), the one source of wake_irq (R126, R128), what a turn does while the host sleeps (R137, R138), and induction over the
turns to come, for what fairness gives (R139). -/

namespace Sys2Proof.Machine

/-! ### The turns of timer and reset line -/

theorem step_of_timer {s : State} (turn : nextAgent s = .timer) :
    step s = .next (timerTick Config.periodTicks (takeTurn s)) := by
  simp [step, turn, agentStep, timerStep]

theorem step_of_reset {s : State} (turn : nextAgent s = .reset) : step s = .next (resetState (takeTurn s)) := by
  simp [step, turn, agentStep]

/-! ### A tick by case -/

/-- In Idle the timer does nothing (R122). -/
theorem timerTick_of_idle (period : Nat) {s : State} (idle : s.block.armed = false) : timerTick period s = quiet s :=
  if_neg (ne_true_of_eq_false idle)

/-- Armed with CNT > 1, a tick counts down (R123). -/
theorem timerTick_of_lt (period : Nat) {s : State} (armed : s.block.armed = true) (more : 1 < s.block.cnt) :
    timerTick period s = setCnt (s.block.cnt - 1) (quiet s) :=
  (if_pos armed).trans (tick_of_lt period s more)

/-- Armed with CNT at its end, a tick reloads CNT and times out (R123, R124). -/
theorem timerTick_of_le (period : Nat) {s : State} (armed : s.block.armed = true) (last : s.block.cnt ≤ 1) :
    timerTick period s = timeout (setCnt period (quiet s)) :=
  (if_pos armed).trans (tick_of_not_lt period s (Nat.not_lt.2 last))

/-- A timeout reloads CNT, sets WAKE and leaves the rest of the block alone (R124). -/
theorem timerTick_block_of_le (period : Nat) {s : State} (armed : s.block.armed = true) (last : s.block.cnt ≤ 1) :
    (timerTick period s).block = { s.block with cnt := period, wake := true } := by
  simp [timerTick_of_le period armed last, timeout_eq]

/-- The timer's turn emits wake_irq exactly at a timeout with IE = 1 (R124, R126). -/
theorem timerTick_wakeIrq_iff (period : Nat) (s : State) :
    (timerTick period s).wakeIrq = true ↔ s.block.armed = true ∧ s.block.cnt ≤ 1 ∧ s.block.ie = true := by
  cases armed : s.block.armed with
  | false => simp [timerTick_of_idle period armed]
  | true => simp [timerTick_wakeIrq period s armed]

/-- The timer's turn ends a sleep exactly by a wake_irq (R137). -/
theorem timerTick_asleep (period : Nat) (s : State) :
    (timerTick period s).asleep = (s.asleep && !(timerTick period s).wakeIrq) := by
  unfold timerTick tick
  split
  · split <;> simp [timeout_eq]
  · simp

/-- Settles O27: the tick counts down, with the turn used up. -/
theorem tickCountsDown : Obligations.TickCountsDown := by
  intro s turn armed more
  rw [step_of_timer turn, timerTick_of_lt _ (by rwa [takeTurn_block]) (by rwa [takeTurn_block])]
  simp [setCnt, quiet]

/-- Settles O28: the tick is a timeout, whose record update timeout_eq gives. -/
theorem timeoutSetsWakeAndEmits : Obligations.TimeoutSetsWakeAndEmits := by
  intro s turn armed last
  rw [step_of_timer turn, timerTick_of_le _ (by rwa [takeTurn_block]) (by rw [takeTurn_block, last]), timeout_eq]
  simp [setCnt, quiet]

/-- Settles O29: in Idle the timer's turn only clears the lines. -/
theorem idleTimerTakesNoStep : Obligations.IdleTimerTakesNoStep := by
  intro s turn idle
  rw [step_of_timer turn, timerTick_of_idle _ (by rwa [takeTurn_block]), quiet]

/-! ### The period of the timeouts (R125) -/

/-- Armed, with `n` ticks since the arming write: CNT is in its range, and with CNT more ticks their number is a multiple of
PERIOD_TICKS. -/
structure TicksSinceArming (n : Nat) (b : Block) : Prop where
  coherent : b.Coherent
  armed    : b.armed = true
  period   : Config.periodTicks ∣ n + b.cnt

/-- The arming write starts the count, whatever the block was (R106). -/
theorem ticksSinceArming_zero (b : Block) :
    TicksSinceArming 0 { b with trs := false, cnt := Config.periodTicks, armed := true, ie := true } where
  coherent := ⟨rfl, fun _ => rfl, fun _ => ⟨Config.one_le_periodTicks, le_rfl⟩⟩
  armed := rfl
  period := by simp

/-- A tick counts, and no operation does. -/
theorem BlockChange.ticksSinceArming {n : Nat} {b c : Block} {l : Line} (change : BlockChange b l c) (noReset : l ≠ .reset)
    (h : TicksSinceArming n b) : TicksSinceArming (n + tickCount [l]) c := by
  obtain ⟨armed', -, -⟩ := change.keeps_armed h.armed noReset
  refine ⟨change.coherent h.coherent, armed', ?_⟩
  cases change with
  | countDown armed more =>
    have same : n + 1 + (b.cnt - 1) = n + b.cnt := by omega
    exact same.symm ▸ h.period
  | timeout armed last =>
    obtain ⟨pos, -⟩ := h.coherent.cnt_in_range armed
    have multiple : Config.periodTicks ∣ n + 1 := Nat.le_antisymm last pos ▸ h.period
    exact (Nat.dvd_add_self_right).2 multiple
  | arm d bit idle => simp [h.armed] at idle
  | idleTick idle => simp [h.armed] at idle
  | reset m => exact absurd rfl noReset
  | advance => exact h.period
  | seed d => exact h.period
  | clearWake d bit => exact h.period
  | keep i => exact h.period

theorem foldl_lineEffect_ticksSinceArming {n : Nat} {s : State} {ls : List Line} (noReset : Line.reset ∉ ls)
    (h : TicksSinceArming n s.block) : TicksSinceArming (n + tickCount ls) (ls.foldl lineEffect s).block := by
  induction ls generalizing n s with
  | nil => exact h
  | cons l ls ih =>
    obtain ⟨other, noReset⟩ := List.ne_and_not_mem_of_not_mem_cons noReset
    have count : tickCount (l :: ls) = tickCount [l] + tickCount ls := List.count_append (l₁ := [l])
    rw [count, ← Nat.add_assoc, List.foldl_cons]
    exact ih noReset ((lineEffect_changes l s).ticksSinceArming other.symm h)

theorem TicksSinceArming.cnt_eq {n : Nat} {b : Block} (h : TicksSinceArming n b) :
    b.cnt = Config.periodTicks - n % Config.periodTicks := by
  obtain ⟨pos, le⟩ := h.coherent.cnt_in_range h.armed
  have lt := Nat.mod_lt n Config.one_le_periodTicks
  have sum : Config.periodTicks ∣ n % Config.periodTicks + b.cnt := by
    rw [Nat.dvd_iff_mod_eq_zero, Nat.mod_add_mod, Nat.mod_eq_zero_of_dvd h.period]
  have : n % Config.periodTicks + b.cnt = Config.periodTicks :=
    Nat.eq_of_dvd_of_lt_two_mul (by omega) sum (by omega)
  omega

/-- The next tick is a timeout exactly when its number is a multiple of PERIOD_TICKS. -/
theorem TicksSinceArming.cnt_le_one_iff {n : Nat} {b : Block} (h : TicksSinceArming n b) :
    b.cnt ≤ 1 ↔ Config.periodTicks ∣ n + 1 := by
  obtain ⟨pos, le⟩ := h.coherent.cnt_in_range h.armed
  constructor
  · intro last
    exact Nat.le_antisymm last pos ▸ h.period
  · intro multiple
    have left : Config.periodTicks ∣ b.cnt - 1 := by
      have := Nat.dvd_sub h.period multiple
      rwa [Nat.add_sub_add_left] at this
    have := Nat.eq_zero_of_dvd_of_lt left (by omega)
    omega

/-- Settles O30: the arming write starts the count of ticks, every line but a reset keeps it, and CNT is read off it. -/
theorem timeoutsArePeriodic : Obligations.TimeoutsArePeriodic := by
  intro s d ls bit idle noReset
  let t := ls.foldl lineEffect (opEffect (.ctrl d) s)
  have start : TicksSinceArming 0 (opEffect (.ctrl d) s).block := by
    rw [opEffect_ctrl_of_idle bit idle]
    exact ticksSinceArming_zero s.block
  have count : TicksSinceArming (tickCount ls) t.block := by
    simpa using foldl_lineEffect_ticksSinceArming noReset start
  have ie : t.block.ie = true := count.coherent.ie_eq_armed.trans count.armed
  refine ⟨t, timerTick Config.periodTicks t, runLines_eq_foldl _ s, count.cnt_eq, rfl, ?_, fun multiple => ?_⟩
  · rw [timerTick_wakeIrq_iff, ← count.cnt_le_one_iff]
    simp [count.armed, ie]
  · rw [timerTick_block_of_le _ count.armed (count.cnt_le_one_iff.2 multiple)]

/-! ### The source of wake_irq, and timeouts against operations -/

/-- Settles O31: the host's turn and a reset emit nothing, and the timer's emits exactly at a timeout with IE = 1. -/
theorem wakeIrqExactlyAtTimeouts : Obligations.WakeIrqExactlyAtTimeouts := by
  intro s t h
  obtain ⟨turn, h⟩ | ⟨turn, rfl⟩ | ⟨turn, rfl⟩ := step_cases h
  · simp [hostStep_wakeIrq h, timeoutPending, turn]
  · simp [timerTick_wakeIrq_iff, timeoutPending, turn, and_assoc]
  · simp [timeoutPending, turn]

/-- As many ticks as CNT says come to one timeout (R123, R124). -/
theorem foldl_replicate_cnt_tick_block {n : Nat} {s : State} (armed : s.block.armed = true) (cnt : s.block.cnt = n + 1) :
    ((List.replicate (n + 1) .tick).foldl lineEffect s).block =
      { s.block with cnt := Config.periodTicks, wake := true } := by
  have before := foldl_replicate_tick_block (n := n) armed (by omega)
  rw [List.replicate_succ', List.foldl_append]
  refine (timerTick_block_of_le _ (by rw [before, armed]) (by rw [before, cnt]; simp)).trans ?_
  rw [before]

/-- Settles O32: a timeout sets WAKE, an ACK clears it, STAT reads it, and a whole period after a timeout comes the next. -/
theorem timeoutOrderedAgainstHostOperations : Obligations.TimeoutOrderedAgainstHostOperations := by
  intro s d armed cnt bit
  have timedOut := timerTick_block_of_le Config.periodTicks armed cnt.le
  refine ⟨runLines_append_ack bit [.tick] s, ⟨_, runLines_eq_foldl _ s, ?_⟩,
    ⟨_, statusWord (timerTick Config.periodTicks s).block, runLines_eq_foldl _ s, rfl, ?_⟩,
    ⟨_, statusWord s.block, exec_eq_opEffect .stat s, rfl, statusWord_getLsbD_zero _⟩, ⟨_, runLines_eq_foldl _ s, ?_⟩⟩
  · obtain ⟨armed', -, -, cnt'⟩ := opEffect_armed (.ack d) s armed
    have := timerTick_block_of_le Config.periodTicks armed' (by rw [cnt', cnt])
    exact congrArg Block.wake this
  · rw [statusWord_getLsbD_zero, timedOut]
  · have again := foldl_replicate_cnt_tick_block (n := Config.periodLessOne) (s := timerTick Config.periodTicks s)
      (by rw [timedOut, armed]) (by rw [timedOut]; rfl)
    exact ⟨congrArg Block.wake again, congrArg Block.cnt again⟩

/-! ### A turn while the host sleeps -/

/-- A sleeping host's turn passes (R137; log 3). -/
theorem step_of_sleeping_host {s : State} (turn : nextAgent s = .host) (asleep : s.asleep = true) :
    step s = .next (quiet (takeTurn s)) := by
  simp [step, turn, agentStep, hostStep, asleep]

/-- With the host asleep every step goes on, and is a turn that passes, the timer's or a reset. -/
theorem step_asleep_cases {s : State} (asleep : s.asleep = true) : ∃ t, step s = .next t ∧
    (nextAgent s = .host ∧ t = quiet (takeTurn s) ∨
     nextAgent s = .timer ∧ t = timerTick Config.periodTicks (takeTurn s) ∨
     nextAgent s = .reset ∧ t = resetState (takeTurn s)) := by
  cases turn : nextAgent s with
  | host => exact ⟨_, step_of_sleeping_host turn asleep, by simp⟩
  | timer => exact ⟨_, step_of_timer turn, by simp⟩
  | reset => exact ⟨_, step_of_reset turn, by simp⟩

/-- Settles O41: of the three turns that can come only the timer's can end the sleep, and it does so by its wake_irq. -/
theorem sleepEndsExactlyAtAWakeIrq : Obligations.SleepEndsExactlyAtAWakeIrq := by
  refine ⟨fun s rest turn awake program => ?_, fun s asleep => ?_⟩
  · simp [step, turn, agentStep, hostStep, awake, program, fallAsleep, quiet]
  · obtain ⟨t, h, agents⟩ := step_asleep_cases asleep
    suffices frame : t.asleep = !t.wakeIrq ∧ t.program = s.program ∧ t.duty = s.duty ∧ t.rdata = none by
      obtain ⟨sleep, rest⟩ := frame
      exact ⟨t, h, sleep, wakeIrqExactlyAtTimeouts s t h, rest⟩
    obtain ⟨-, rfl⟩ | ⟨-, rfl⟩ | ⟨-, rfl⟩ := agents
    · simp [asleep]
    · simp [timerTick_asleep, timerTick_frame, asleep]
    · simp [asleep]

/-- Settles O42: the host's turn passes, and the timer's has its frame and its count. -/
theorem blockKeepsItsStateWhileTheHostSleeps : Obligations.BlockKeepsItsStateWhileTheHostSleeps := by
  intro s asleep noReset
  obtain ⟨t, h, agents⟩ := step_asleep_cases asleep
  refine ⟨t, h, ?_⟩
  obtain ⟨turn, rfl⟩ | ⟨turn, rfl⟩ | ⟨turn, -⟩ := agents
  · simp [turn]
  · obtain ⟨lfsr, armed', ie, trs, -⟩ := timerTick_frame Config.periodTicks (takeTurn s)
    rw [takeTurn_block] at lfsr armed' ie trs
    refine ⟨lfsr, armed', ie, trs, by simp [turn], fun _ armed => ?_⟩
    rw [timerTick_cnt _ _ (by rwa [takeTurn_block]), takeTurn_block]
  · exact absurd turn noReset

/-- A property that every step from a state with it keeps, and whose states are never refused, holds after any number of
steps. -/
theorem run_induct {P : State → Prop} (keep : ∀ s, P s → ∃ t, step s = .next t ∧ P t) (k : Nat) {s : State} (h : P s) :
    ∃ t, Host.Core.run Sys2Proof.core k s = .next t ∧ P t := by
  induction k generalizing s with
  | zero => exact ⟨s, rfl, h⟩
  | succ k ih =>
    obtain ⟨t, hst, ht⟩ := keep s h
    rw [run_succ_of_next hst]
    exact ih ht

/-- Settles O44: asleep in Idle, every turn passes but a reset's, and a reset leaves Idle and the sleep as they are. -/
theorem sleepInIdleNeverEnds : Obligations.SleepInIdleNeverEnds := by
  intro s asleep idle k
  refine run_induct (P := fun s => s.asleep = true ∧ s.block.armed = false) (fun s h => ?_) k ⟨asleep, idle⟩
  obtain ⟨asleep, idle⟩ := h
  obtain ⟨t, h, agents⟩ := step_asleep_cases asleep
  refine ⟨t, h, ?_⟩
  obtain ⟨-, rfl⟩ | ⟨-, rfl⟩ | ⟨-, rfl⟩ := agents
  · simp [asleep, idle]
  · rw [timerTick_of_idle _ (by rwa [takeTurn_block])]
    simp [asleep, idle]
  · exact ⟨by simp [asleep], rfl⟩

/-- Settles O45: the timeout finds the host awake, and the sleep that follows leaves the block as the timeout left it. -/
theorem sleepEntryWindowCostsOnePeriod : Obligations.SleepEntryWindowCostsOnePeriod := by
  intro s rest more armed cnt awake program schedule
  obtain ⟨turn, taken⟩ := takeTurn_of_schedule s _ _ schedule
  obtain ⟨t, timedOut, block, awake', program', schedule'⟩ : ∃ t, step s = .next t ∧
      t.block = { s.block with cnt := Config.periodTicks, wake := true } ∧
      t.asleep = false ∧ t.program = .sleep :: rest ∧ t.schedule = .host :: more :=
    ⟨_, timeoutSetsWakeAndEmits s turn armed cnt, rfl, by simp [awake], by simp [program], by simp [taken]⟩
  obtain ⟨turn', taken'⟩ := takeTurn_of_schedule t _ _ schedule'
  obtain ⟨fallsAsleep, -⟩ := sleepEndsExactlyAtAWakeIrq
  refine ⟨_, (run_succ_of_next timedOut 1).trans (run_succ_of_next (fallsAsleep t rest turn' awake' program') 0), ?_⟩
  simp [block, taken']

/-! ### Induction over the turns to come (R139) -/

/-- If turns are to come, the first is the next agent's, and the others come after it. -/
theorem comingTurns_eq_cons {n : Nat} {s : State} {a : Agent} {turns : List Agent} (coming : comingTurns n s = a :: turns) :
    nextAgent s = a ∧ ∃ m, comingTurns m (takeTurn s) = turns := by
  suffices h : ∃ m, comingTurns n s = nextAgent s :: comingTurns m (takeTurn s) by
    obtain ⟨m, h⟩ := h
    obtain ⟨head, tail⟩ := List.cons.inj (h.symm.trans coming)
    exact ⟨head, m, tail⟩
  cases schedule : s.schedule with
  | cons b rest =>
    obtain ⟨turn, taken⟩ := takeTurn_of_schedule s b rest schedule
    exact ⟨n, by rw [turn, taken, comingTurns, schedule]; rfl⟩
  | nil =>
    cases n with
    | zero => simp [comingTurns, schedule] at coming
    | succ n =>
      refine ⟨n, ?_⟩
      have begun := nextAgent_cons_takeTurn s
      rw [if_pos schedule] at begun
      rw [comingTurns, comingTurns, ← List.cons_append, begun, takeTurn_round, if_pos schedule, schedule,
        List.range_succ_eq_map, List.flatMap_cons, List.flatMap_map]
      simp [Nat.add_assoc, Nat.add_comm 1]

/-- A step leaves the other turns to come. -/
theorem step_comingTurns {n : Nat} {s t : State} {a : Agent} {turns : List Agent} (coming : comingTurns n s = a :: turns)
    (h : step s = .next t) : ∃ m, comingTurns m t = turns := by
  obtain ⟨-, m, rest⟩ := comingTurns_eq_cons coming
  obtain ⟨schedule, round⟩ := step_turns h
  exact ⟨m, by rw [← rest, comingTurns, comingTurns, schedule, round]⟩

/-- An agent whose turn is among those to come has it within them, unless the run is refused before (R66; log 10). -/
theorem turn_comes {a : Agent} {turns : List Agent} (mem : a ∈ turns) {n : Nat} {s : State}
    (coming : comingTurns n s = turns) :
    ∃ k, k < turns.length ∧
      ((∃ r, Host.Core.run Sys2Proof.core k s = .refused r) ∨
       ∃ t, Host.Core.run Sys2Proof.core k s = .next t ∧ nextAgent t = a) := by
  induction turns generalizing n s with
  | nil => cases mem
  | cons b turns ih =>
    obtain ⟨turn, -⟩ := comingTurns_eq_cons coming
    obtain rfl | later := List.mem_cons.1 mem
    · exact ⟨0, Nat.succ_pos _, .inr ⟨s, rfl, turn⟩⟩
    · cases h : step s with
      | next t =>
        obtain ⟨m, rest⟩ := step_comingTurns coming h
        obtain ⟨k, lt, comes⟩ := ih later rest
        exact ⟨k + 1, Nat.succ_lt_succ lt, by rwa [run_succ_of_next h]⟩
      | fault r => cases r
      | refused r =>
        exact ⟨1, Nat.succ_lt_succ (List.length_pos_of_mem later), .inl ⟨r, run_succ_of_refused h 0⟩⟩

/-- Host and timer have a turn in every free round (log 2). -/
theorem mem_turnRound {a : Agent} (h : a = .host ∨ a = .timer) (beforeHost beforeTimer : Nat → List Agent) (n : Nat) :
    a ∈ turnRound beforeHost beforeTimer n := by
  obtain rfl | rfl := h <;> simp [turnRound]

/-- `n` free rounds hold at least `n` turns of the host, and of the timer. -/
theorem le_count_comingTurns {a : Agent} (h : a = .host ∨ a = .timer) (n : Nat) (s : State) :
    n ≤ (comingTurns n s).count a := by
  rw [comingTurns, List.count_append]
  exact le_add_left (le_count_firstRounds (beforeHost := fun m => Config.turnsBeforeHost (s.round + m))
    (beforeTimer := fun m => Config.turnsBeforeTimer (s.round + m)) (fun m => mem_turnRound h _ _ m) n)

/-- Settles O52: the agent named has a turn in the next free round. -/
theorem neitherAgentIsPostponedForever : Obligations.NeitherAgentIsPostponedForever := by
  intro s a h
  exact turn_comes (List.count_pos_iff.1 (le_count_comingTurns h 1 s)) rfl

/-- A turn while the host sleeps and the timer is Armed: a reset's; or it wakes the host; or the sleep goes on, with CNT one
lower if the turn was the timer's (R123, R124, R137). -/
theorem step_of_armed_sleep {s : State} (coherent : s.block.Coherent) (asleep : s.asleep = true)
    (armed : s.block.armed = true) :
    nextAgent s = .reset ∨ ∃ t, step s = .next t ∧
      (t.asleep = false ∧ t.block.wake = true ∨
       t.asleep = true ∧ t.block.armed = true ∧ t.block.cnt + [nextAgent s].count .timer = s.block.cnt) := by
  obtain ⟨t, h, ⟨turn, rfl⟩ | ⟨turn, rfl⟩ | ⟨turn, -⟩⟩ := step_asleep_cases asleep
  · exact .inr ⟨_, h, .inr (by simp [turn, asleep, armed])⟩
  · refine .inr ⟨_, h, ?_⟩
    obtain more | last := Nat.lt_or_ge 1 s.block.cnt
    · rw [timerTick_of_lt _ (by rwa [takeTurn_block]) (by rwa [takeTurn_block])]
      exact .inr ⟨by simp [asleep], by simp [armed], by simp [turn, Nat.sub_add_cancel more.le]⟩
    · have irq : (timerTick Config.periodTicks (takeTurn s)).wakeIrq = true := by
        simp [timerTick_wakeIrq_iff, armed, last, coherent.ie_eq_armed]
      exact .inl (timerTick_irq_wakes irq).symm
  · exact .inl turn

/-- With at least CNT turns of the timer among those to come, a sleep while Armed ends within them, unless one of them is a
reset that comes before (R139). -/
theorem armed_sleep_ends {turns : List Agent} {n : Nat} {s : State} (coming : comingTurns n s = turns)
    (coherent : s.block.Coherent) (asleep : s.asleep = true) (armed : s.block.armed = true)
    (enough : s.block.cnt ≤ turns.count .timer) :
    ∃ k t, k ≤ turns.length ∧ Host.Core.run Sys2Proof.core k s = .next t ∧
      (t.asleep = false ∧ t.block.wake = true ∨
       (t.asleep = true ∧ t.block.armed = true ∧ nextAgent t = .reset) ∧ Agent.reset ∈ turns) := by
  induction turns generalizing n s with
  | nil =>
    obtain ⟨pos, -⟩ := coherent.cnt_in_range armed
    exact absurd (pos.trans enough) (Nat.not_succ_le_zero 0)
  | cons a turns ih =>
    obtain ⟨turn, -⟩ := comingTurns_eq_cons coming
    obtain reset | ⟨t, h, ⟨awake, wake⟩ | ⟨asleep', armed', cnt⟩⟩ := step_of_armed_sleep coherent asleep armed
    · exact ⟨0, s, Nat.zero_le _, rfl, .inr ⟨⟨asleep, armed, reset⟩, by simp [← turn, reset]⟩⟩
    · exact ⟨1, t, Nat.succ_pos _, run_succ_of_next h 0, .inl ⟨awake, wake⟩⟩
    · obtain ⟨m, rest⟩ := step_comingTurns coming h
      have enough' : t.block.cnt ≤ turns.count .timer := by
        have : (a :: turns).count Agent.timer = [a].count .timer + turns.count .timer := List.count_append (l₁ := [a])
        rw [turn] at cnt
        omega
      obtain ⟨k, u, le, run, ends⟩ := ih rest (step_coherent h coherent) asleep' armed' enough'
      exact ⟨k + 1, u, Nat.succ_le_succ le, (run_succ_of_next h k).trans run,
        ends.imp_right fun ⟨stopped, mem⟩ => ⟨stopped, List.mem_cons_of_mem a mem⟩⟩

/-- Settles O43: CNT free rounds hold CNT turns of the timer; in the second part the schedule alone does, and no reset is in
it. -/
theorem everySleepWhileArmedEnds : Obligations.EverySleepWhileArmedEnds := by
  intro s inv asleep armed
  refine ⟨?_, fun noReset enough => ?_⟩
  · obtain ⟨k, t, le, run, ends⟩ := armed_sleep_ends (n := s.block.cnt) rfl inv.coherent asleep armed
      (le_count_comingTurns (.inr rfl) _ s)
    exact ⟨k, t, le, run, ends.imp_right And.left⟩
  · have coming : comingTurns 0 s = s.schedule := List.append_nil _
    obtain ⟨k, t, le, run, ends⟩ := armed_sleep_ends coming inv.coherent asleep armed enough
    exact ⟨k, t, le, run, ends.resolve_right fun ⟨_, mem⟩ => noReset mem⟩

end Sys2Proof.Machine
end

section
/-! PROOFS about what follows a reset (R151) and about the reference host's loop (R161 to R165): the block before the arming
write, the effect of each step of the loop that draws no random value, and which step alone changes LightMode. -/

namespace Sys2Proof.Machine

/-! ### Before the arming write (R151) -/

/-- Only a CTRL write with D[0] = 1 leaves Idle (R25, R106). -/
theorem BlockChange.keeps_idle {b c : Block} {l : Line} (change : BlockChange b l c) (idle : b.armed = false)
    (noArm : ∀ d, l = .op (.ctrl d) → d.getLsbD 0 = false) : c.armed = false := by
  cases change with
  | arm d bit _ => exact absurd bit (ne_true_of_eq_false (noArm d rfl))
  | countDown armed more => simp [idle] at armed
  | timeout armed last => simp [idle] at armed
  | reset n => rfl
  | _ => exact idle

/-- In Idle no line emits wake_irq (R122, R126). -/
theorem lineEffect_wakeIrq_of_idle (l : Line) {s : State} (idle : s.block.armed = false) :
    (lineEffect s l).wakeIrq = false := by
  cases l with
  | op i => simp [lineEffect, opEffect_frame]
  | tick => simp [lineEffect, timerTick_of_idle _ idle]
  | reset => rfl

/-- In Idle with R31's facts, which leave IE and WAKE no value but 0, and no wake_irq from the last step. -/
structure Unarmed (s : State) : Prop where
  coherent : s.block.Coherent
  idle     : s.block.armed = false
  noIrq    : s.wakeIrq = false

theorem unarmed_resetState (s : State) : Unarmed (resetState s) := ⟨blockAtReset_coherent _, rfl, rfl⟩

theorem Unarmed.lineEffect {s : State} (h : Unarmed s) {l : Line}
    (noArm : ∀ d, l = .op (.ctrl d) → d.getLsbD 0 = false) : Unarmed (lineEffect s l) where
  coherent := (lineEffect_changes l s).coherent h.coherent
  idle     := (lineEffect_changes l s).keeps_idle h.idle noArm
  noIrq    := lineEffect_wakeIrq_of_idle l h.idle

theorem Block.Coherent.wake_of_idle {b : Block} (h : b.Coherent) (idle : b.armed = false) : b.wake = false :=
  Bool.eq_false_of_not_eq_true fun wake => by simp [h.wake_armed wake] at idle

/-- Settles O36: a reset leaves the machine unarmed, and every line that is no arming write keeps it so. -/
theorem nothingWakesBeforeArming : Obligations.NothingWakesBeforeArming := by
  intro ls s noArm
  have unarmed : Unarmed (ls.foldl lineEffect (resetState s)) :=
    foldl_lineEffect_induct ls _ (unarmed_resetState s) fun l mem t h => h.lineEffect fun d e => noArm d (e ▸ mem)
  exact ⟨_, runLines_eq_foldl (.reset :: ls) s, unarmed.idle, unarmed.coherent.ie_eq_armed.trans unarmed.idle,
    unarmed.coherent.wake_of_idle unarmed.idle, unarmed.noIrq⟩

/-! ### The loop's steps by phase -/

/-- Whatever the turns to come, the turn of an awake host that runs the reference loop is one step of the loop. -/
theorem step_of_dutyCycle_turn {s : State} {rest : List HostAction} (turn : nextAgent s = .host) (awake : s.asleep = false)
    (program : s.program = .dutyCycle :: rest) : step s = dutyStep (takeTurn s) := by
  simp [step, turn, agentStep, hostStep, awake, program]

section
variable {s : State}

/-- The wake check: STAT, whose bit 0 is WAKE, and then the ACK or the branch of LightMode (R162). -/
theorem dutyStep_of_checkWake (phase : s.duty.phase = .checkWake) :
    dutyStep s = .next (setPhase (if s.block.wake then .clearWake else branchPhase s.duty.lightMode) (opEffect .stat s)) := by
  have bit : (lastRead (opEffect .stat s)).getLsbD 0 = s.block.wake := statusWord_getLsbD_zero s.block
  simp only [dutyStep, phase, performAccess_of_fetch fetch_readStatus, afterOp, bit, opEffect_frame]

/-- The ACK, and then the classification (R162). -/
theorem dutyStep_of_clearWake (phase : s.duty.phase = .clearWake) :
    dutyStep s = .next (setPhase .classify (opEffect (.ack 1#16) s)) := by
  simp [dutyStep, phase, performAccess_of_fetch fetch_writeStatusOne, afterOp]

/-- The light branch turns the outputs off (R165). -/
theorem dutyStep_of_blankOutputs (phase : s.duty.phase = .blankOutputs) :
    dutyStep s = .next { quiet s with
      duty := { s.duty with outputMask := 0#4, drivable := false, phase := .enterSleep } } := by
  simp [dutyStep, phase]

/-- The light branch sleeps, and the loop begins again at its wake check (R165). -/
theorem dutyStep_of_enterSleep (phase : s.duty.phase = .enterSleep) :
    dutyStep s = .next (setPhase .checkWake (fallAsleep s)) := by
  simp [dutyStep, phase]

theorem dutyStep_of_delay (phase : s.duty.phase = .delay) : dutyStep s = .next (setPhase .checkWake (quiet s)) := by
  simp [dutyStep, phase]

/-- The classification of the light by sample(), and then the branch of the new LightMode (R163). -/
theorem dutyStep_of_classify (phase : s.duty.phase = .classify) :
    dutyStep s = .next { (takeSample (quiet s)).2 with
      duty := { s.duty with lightMode := classifyLight (takeSample (quiet s)).1,
                            phase := branchPhase (classifyLight (takeSample (quiet s)).1) } } := by
  have duty : (takeSample (quiet s)).2.duty = s.duty := by unfold takeSample; split <;> rfl
  simp [dutyStep, phase, duty]

end

theorem branchPhase_eq (m : LightMode) : branchPhase m = if m = .dark then .drawReference else .blankOutputs := by
  cases m <;> rfl

/-- Settles O46: the two steps by phase, from the state with the host's turn used up. -/
theorem dutyLoopChecksAndClearsWake : Obligations.DutyLoopChecksAndClearsWake := by
  intro s rest turn awake program
  rw [step_of_dutyCycle_turn turn awake program]
  refine ⟨fun phase => ⟨_, dutyStep_of_checkWake (by rwa [takeTurn_duty]), ?_⟩,
    fun phase => ⟨_, dutyStep_of_clearWake (by rwa [takeTurn_duty]), ?_⟩⟩
  · simp [opEffect, branchPhase_eq]
  · simp [opEffect_ack_of_set]

/-- Settles O50: the host's two turns are the light branch's two steps. -/
theorem lightBranchBlanksThenSleeps : Obligations.LightBranchBlanksThenSleeps := by
  intro s rest more awake program schedule phase
  obtain ⟨t, blanks, block, duty, awake', program', schedule'⟩ : ∃ t, step s = .next t ∧ t.block = s.block ∧
      t.duty = { s.duty with outputMask := 0#4, drivable := false, phase := .enterSleep } ∧
      t.asleep = false ∧ t.program = .dutyCycle :: rest ∧ t.schedule = .host :: more :=
    ⟨_, (step_of_dutyCycle awake program schedule).trans (dutyStep_of_blankOutputs phase), rfl, rfl, awake, program, rfl⟩
  refine ⟨t, _, blanks, (step_of_dutyCycle awake' program' schedule').trans (dutyStep_of_enterSleep (by rw [duty])), ?_⟩
  simp [block, duty, awake']

/-! ### LightMode (R163) -/

theorem classifyLight_eq_dark_iff (v : Nat) : classifyLight v = .dark ↔ v < 10 := by
  unfold classifyLight Config.threshold
  split <;> simp [*]

theorem classifyLight_eq_light_iff (v : Nat) : classifyLight v = .light ↔ 10 ≤ v := by
  rw [← Nat.not_lt, ← classifyLight_eq_dark_iff]
  cases classifyLight v <;> simp

/-- sample() takes the next listed sample, or with none listed the free value of the present count (R161). -/
theorem takeSample_source (s : State) :
    (s.samples ≠ [] → s.samples = (takeSample s).1 :: (takeSample s).2.samples) ∧
    (s.samples = [] → (takeSample s).2.samples = [] ∧ (takeSample s).1 = Config.sampleDraw s.draws) := by
  unfold takeSample
  split <;> rename_i h <;> simp [h]

theorem takeSample_frame (s : State) :
    (takeSample s).2.block = s.block ∧ (takeSample s).2.program = s.program := by
  unfold takeSample
  split <;> simp

/-- Of the loop's steps only the classification changes LightMode. -/
theorem dutyStep_lightMode {s t : State} (h : dutyStep s = .next t) (phase : s.duty.phase ≠ .classify) :
    t.duty.lightMode = s.duty.lightMode := by
  cases p : s.duty.phase with
  | checkWake => rw [dutyStep_of_checkWake p] at h; cases h; simp [opEffect_frame]
  | clearWake => rw [dutyStep_of_clearWake p] at h; cases h; simp [opEffect_frame]
  | classify => exact absurd p phase
  | drawReference => rw [dutyStep_of_drawReference p] at h; cases h; rfl
  | drawOutput k j => rw [dutyStep_of_drawOutput p] at h; cases h; rfl
  | delay => rw [dutyStep_of_delay p] at h; cases h; rfl
  | blankOutputs => rw [dutyStep_of_blankOutputs p] at h; cases h; rfl
  | enterSleep => rw [dutyStep_of_enterSleep p] at h; cases h; rfl

/-- No turn but the host's touches the reference host's state (log 13). -/
theorem step_duty_of_not_host {s t : State} (h : step s = .next t) (turn : nextAgent s ≠ .host) : t.duty = s.duty := by
  obtain ⟨host, -⟩ | ⟨-, rfl⟩ | ⟨-, rfl⟩ := step_cases h
  · exact absurd host turn
  · simp [timerTick_frame]
  · simp

/-- Settles O47: the classification compares the sample taken with 10, and a step that changes LightMode is the host's and no
other step of its loop. -/
theorem lightIsClassifiedAtWakeChecksOnly : Obligations.LightIsClassifiedAtWakeChecksOnly := by
  constructor
  · intro s rest turn awake program phase
    obtain ⟨listed, free⟩ := takeSample_source (quiet (takeTurn s))
    obtain ⟨block, program'⟩ := takeSample_frame (quiet (takeTurn s))
    refine ⟨_, (takeSample (quiet (takeTurn s))).1,
      (step_of_dutyCycle_turn turn awake program).trans (dutyStep_of_classify (by rwa [takeTurn_duty])),
      by simpa using listed, by simpa using free, classifyLight_eq_dark_iff _, classifyLight_eq_light_iff _, ?_,
      by simpa using block, by simpa using program'⟩
    simp [branchPhase_eq, classifyLight_eq_dark_iff]
  · intro s t h changed
    constructor
    · by_contra other
      exact changed (congrArg Duty.lightMode (step_duty_of_not_host h other))
    · by_contra other
      obtain same | loop := step_duty h
      · exact changed (congrArg Duty.lightMode same)
      · exact changed (by rw [dutyStep_lightMode loop (by rwa [takeTurn_duty]), takeTurn_duty])

end Sys2Proof.Machine
end
